-- ==== Sys2Proof/Word.lean ====
section
/-! DEFINITION. The bit vectors of the block, with the fixed widths of 00_scope.md R8. -/

namespace Sys2Proof

/-- A byte, 8 bits (R8). -/
abbrev Byte := BitVec 8

/-- A word, which MPG calls a register: 16 bits, unsigned (R8). -/
abbrev Word := BitVec 16

/-- The value lane VAL, 128 bits (R8, R29). -/
abbrev Val := BitVec 128

/-- The command header HDR, 16 bits (R8, R60). -/
abbrev Header := BitVec 16

/-- The response status STATUS, 4 bits (R8, R71). -/
abbrev Status := BitVec 4

end Sys2Proof
end

