-- ==== Sys2Proof/Config.lean ====
section
/-! DEFINITION. What one instance of the block fixes (the two open parameters, 00_scope.md R6 and R7) and the one free value
(what the scratch buffer holds when a command begins, 10_state.md R33 and R35). -/

namespace Sys2Proof

/-- A byte order (R7, R22): the values of `HOST_ORDER` and of CFG.ORDER. -/
inductive Order where
  | big
  | little
deriving DecidableEq, Repr, Inhabited

/-- The two parameters of an instance (R6, R7, R21). `NMAX` ranges over 9 to 255, so it is held as its excess over 9
(assumption log, entry 3): every value of this type is a legal instance and every legal instance is a value of it. -/
structure Params where
  /-- `HOST_ORDER`, the byte order of the internal byte buffer (R7). -/
  hostOrder : Order
  /-- `NMAX - 9` (R6). -/
  nmaxOver9 : Fin 247
deriving DecidableEq, Repr, Inhabited

/-- `NMAX`, the greatest number of words a word lane carries (R6). -/
def Params.nmax (p : Params) : Nat := 9 + p.nmaxOver9.val

/-- The parameters of the instance that `State.reset` describes. OPEN in the spec (D3, D4), so uninterpreted here: nothing
can be proved about which instance it is (assumption log, entry 2). -/
opaque Config.params : Params

/-- The byte at an offset of the scratch buffer when a command begins: unspecified by R33 and R35, so uninterpreted
(assumption log, entry 7). -/
opaque Config.scratchByte : Nat → Byte

end Sys2Proof
end

