-- ==== Sys2Proof/Syntax.lean ====
section
/-! DEFINITION. The nine operations of 30_encoding.md R66 with their header fields (R62), and the assembler notation of R72. -/

namespace Sys2Proof

/-- One constructor per row of the opcode table. `signed` is field S, `scaled` is field K, `len` is field LEN (R62); LEN is an
unbounded natural number here (R14), its 8-bit range is `WellFormed`'s. -/
inductive Instr where
  /-- `CFG`: write the codec configuration (40_config.md R90). -/
  | cfg (wswap : Bool) (order : Order)
  /-- `BOT`: the byte-order multiplexer on a byte sequence (41_byte_order_mux.md R99). -/
  | bot
  /-- `WSW`: the word swapper on a word sequence (42_word_swapper.md R109). -/
  | wsw
  /-- `B2W`: host-order bytes to registers (R117). -/
  | b2w (len : Nat)
  /-- `W2B`: registers to host-order bytes (R118). -/
  | w2b
  /-- `SERI`: integer to registers (43_int_serializers.md R131). -/
  | seri (signed scaled : Bool) (len : Nat)
  /-- `DESI`: registers to integer (R132). -/
  | desi (signed scaled : Bool)
  /-- `SERF`: float bit pattern to registers (44_float_reinterpret.md R154). -/
  | serf (len : Nat)
  /-- `DESF`: registers to float bit pattern (R155). -/
  | desf
deriving DecidableEq, Repr

/-- A byte order as the assembler writes it (R72). -/
def Order.text : Order → String
  | .big => "big"
  | .little => "little"

/-- The suffixes `.u`, `.s`, `.k` of R72, which are fields and no instructions of their own (R73). -/
def suffixText (signed scaled : Bool) : String :=
  (if signed then ".s" else ".u") ++ (if scaled then ".k" else "")

/-- The assembler notation of an operation, without its lane operands (R72). -/
def Instr.text : Instr → String
  | .cfg w o => "CFG wswap=" ++ (if w then "1" else "0") ++ ", order=" ++ o.text
  | .bot => "BOT"
  | .wsw => "WSW"
  | .b2w n => "B2W len=" ++ toString n
  | .w2b => "W2B"
  | .seri g k n => "SERI" ++ suffixText g k ++ " len=" ++ toString n
  | .desi g k => "DESI" ++ suffixText g k
  | .serf n => "SERF len=" ++ toString n
  | .desf => "DESF"

end Sys2Proof
end

