-- ==== Sys2Proof/WellFormed.lean ====
section
/-! DEFINITION. Which instructions a header can spell: LEN is an 8-bit field (30_encoding.md R62), every other field is one bit
and both its values are legal (10_state.md R23). -/

namespace Sys2Proof

/-- LEN is "the number of registers to produce, 0 to 255" (R62). A LEN that is out of range for its operation is still
well-formed: the header decodes and the operation answers `UnsupportedLength` (R69). -/
def Instr.wellFormed : Instr → Bool
  | .cfg _ _ => true
  | .bot => true
  | .wsw => true
  | .b2w n => decide (n ≤ 255)
  | .w2b => true
  | .seri _ _ n => decide (n ≤ 255)
  | .desi _ _ => true
  | .serf n => decide (n ≤ 255)
  | .desf => true

end Sys2Proof
end

