-- ==== Sys2Proof/Decode.lean ====
section
/-! DEFINITION. The header: the opcode table of 30_encoding.md R66, decoding (total, R70; refusing every illegal header, R68) and
the encoder written from the formats of R61. -/

namespace Sys2Proof

/-- CFG.ORDER's bit value: 0 is `big`, 1 is `little` (R62). -/
def Order.ofBit (b : Bool) : Order := if b then .little else .big

/-- The bit that spells a byte order (R62). -/
def Order.toBit : Order → Bool
  | .big => false
  | .little => true

/-- Field S, HDR[11] (R62). -/
def Header.signed (h : Header) : Bool := h.getLsbD 11

/-- Field K, HDR[10] (R62). -/
def Header.scaled (h : Header) : Bool := h.getLsbD 10

/-- Field LEN, HDR[7:0], an unsigned count used as it stands (R62, R63). -/
def Header.len (h : Header) : Nat := (h.extractLsb' 0 8).toNat

/-- A row of the opcode table: mask, match, and the operation with the fields its format gives it (R66). -/
structure Row where
  mask : Header
  spelling : Header
  build : Header → Instr

/-- A header spells the operation when `h & mask = match` (R66). -/
def Row.spells (r : Row) (h : Header) : Bool := h &&& r.mask == r.spelling

/-- The nine rows (R66). -/
def opcodeTable : List Row :=
  [ ⟨0xFFFC, 0x1000, fun h => .cfg (h.getLsbD 1) (Order.ofBit (h.getLsbD 0))⟩,
    ⟨0xFFFF, 0x2000, fun _ => .bot⟩,
    ⟨0xFFFF, 0x3000, fun _ => .wsw⟩,
    ⟨0xFF00, 0x4000, fun h => .b2w (Header.len h)⟩,
    ⟨0xFFFF, 0x5000, fun _ => .w2b⟩,
    ⟨0xF300, 0x6000, fun h => .seri (Header.signed h) (Header.scaled h) (Header.len h)⟩,
    ⟨0xF3FF, 0x7000, fun h => .desi (Header.signed h) (Header.scaled h)⟩,
    ⟨0xFF00, 0x8000, fun h => .serf (Header.len h)⟩,
    ⟨0xFFFF, 0x9000, fun _ => .desf⟩ ]

/-- The first row of a list that the header spells. -/
def decodeRows : List Row → Header → Option Instr
  | [], _ => none
  | r :: rs, h => if r.spells h then some (r.build h) else decodeRows rs h

/-- Decoding: the row the header spells, or `none` for an illegal header (R68, R70). It reads HDR alone. -/
def decode (h : Header) : Option Instr := decodeRows opcodeTable h

/-- Format C: OPC, ten zero bits, WSWAP, ORDER (R61). -/
def formatC (opc : BitVec 4) (wswap : Bool) (order : Order) : Header :=
  opc ++ 0#10 ++ BitVec.ofBool wswap ++ BitVec.ofBool order.toBit

/-- Format L: OPC, S, K, two zero bits, LEN (R61). -/
def formatL (opc : BitVec 4) (signed scaled : Bool) (len : Nat) : Header :=
  opc ++ BitVec.ofBool signed ++ BitVec.ofBool scaled ++ 0#2 ++ BitVec.ofNat 8 len

/-- Format N: OPC, S, K, ten zero bits (R61). -/
def formatN (opc : BitVec 4) (signed scaled : Bool) : Header :=
  opc ++ BitVec.ofBool signed ++ BitVec.ofBool scaled ++ 0#10

/-- The header of a well-formed instruction (R61, R66). S and K are fields of `SERI` and `DESI` only, and zero elsewhere. -/
def encode : Instr → Header
  | .cfg w o => formatC 1 w o
  | .bot => formatN 2 false false
  | .wsw => formatN 3 false false
  | .b2w n => formatL 4 false false n
  | .w2b => formatN 5 false false
  | .seri g k n => formatL 6 g k n
  | .desi g k => formatN 7 g k
  | .serf n => formatL 8 false false n
  | .desf => formatN 9 false false

/-- The instruction read from a table row's word: the header is its low 16 bits, and a word whose bits reach above the
16-bit header is none of the block's (R60: "one instruction length, no prefix"). -/
def decodeTableWord (nbits w : Nat) : Option Instr :=
  let word := w % 2 ^ nbits
  if word < 2 ^ 16 then decode (BitVec.ofNat 16 word) else none

end Sys2Proof
end

