-- ==== Sys2Proof/Machine/State.lean ====
section
/-! DEFINITION. The state of the block: the register CFG (10_state.md R20), and, since a step of the host's interface has one
argument, the other arguments and the results of the spec's step (00_scope.md R10): the instance's parameters, the commands the
host presents and the responses it has been given. -/

namespace Sys2Proof.Machine

/-- The codec configuration CFG holds once it is configured: WSWAP and ORDER (10_state.md R22). -/
structure CodecConfig where
  /-- CFG.WSWAP: the word array is reversed when true. -/
  wswap : Bool
  /-- CFG.ORDER: the declared byte order of the source. -/
  order : Order
deriving DecidableEq, Repr

/-- A command: the four lanes the host presents (30_encoding.md R60). -/
structure Command where
  hdr : Header
  val : Val
  bseq : List Byte
  wseq : List Word
deriving DecidableEq, Repr

/-- The six errors the block can raise (60_exceptions.md R167). -/
inductive ErrorKind where
  /-- An illegal header (R168). -/
  | unsupportedEncoding
  /-- `SERF` with an operand wider than the float format (R169). -/
  | unsupportedType
  /-- A length outside the operation's set (R170). -/
  | unsupportedLength
  /-- `B2W` with `BLEN != 2*LEN` (R171). -/
  | lengthMismatch
  /-- `SERI` with an integer that does not fit (R172). -/
  | rangeError
  /-- A legal command other than `CFG` before the first `CFG` (R175). -/
  | notConfigured
deriving DecidableEq, Repr

/-- The result of a successful command (30_encoding.md R71): data on the one lane the operation names, or nothing. -/
inductive Result where
  | nothing
  | bytes (b : List Byte)
  | words (w : List Word)
  | value (v : Val)
deriving DecidableEq, Repr

/-- A response: a result, or an error and no data (R71, 60_exceptions.md R177). -/
abbrev Response := Except ErrorKind Result

/-- The block has no fault of its own: every error of the spec is a response (60_exceptions.md R165) and nothing is stuck
(93_implementation_defined.md, end of section 1). -/
inductive Fault where
  /-- Raised by a meaning applied to a state in which no command is presented, so that there are no lanes to read. Safe: the
  machine's step never does so (assumption log, entry 9). -/
  | noCommand
deriving DecidableEq, Repr

/-- Why a step has no meaning. -/
inductive Refusal where
  /-- Raised by an arm of `exec` whose instruction has no meaning yet. Safe. No arm raises it. -/
  | notModelled (mnemonic : String)
  /-- Raised by the step when the command's byte or word sequence is longer than its lane carries: such a command "cannot be
  presented" (10_state.md R30, R31; U5). Safe (assumption log, entry 6). -/
  | notPresentable
deriving DecidableEq, Repr

/-- The state. `cfg` is the whole architectural state (R20); the other fields carry the spec's step's other arguments and its
results (assumption log, entries 1 and 2). -/
structure State where
  /-- `NMAX` and `HOST_ORDER` of the instance (R21); no step changes them. -/
  params : Params
  /-- CFG: `none` while CFGV = 0, as R25 asks. -/
  cfg : Option CodecConfig
  /-- The commands the host has presented and the block has not yet executed, the next one first (10_state.md R27). -/
  pending : List Command
  /-- The responses given, oldest first: response `k` answers command `k` (20_memory.md R55). -/
  responses : List Response
deriving DecidableEq, Repr

/-- CFG.CFGV (R22). -/
def State.cfgv (s : State) : Bool := s.cfg.isSome

/-- After reset CFGV is 0, no command and no response is pending, and the parameters keep the instance's values (10_state.md R35). -/
def State.reset : State :=
  { params := Config.params
    cfg := none
    pending := []
    responses := [] }

end Sys2Proof.Machine
end

