-- ==== Sys2Proof/Machine/Operands.lean ====
section
/-! DEFINITION. The units of the block as pure functions over sequences, one function per rule: BOT, WSW, PACK, UNPACK, W2B, B2W,
I2B, B2I; the lanes each operation names (30_encoding.md R66) and the lanes' capacities (10_state.md R30, R31). -/

namespace Sys2Proof.Machine

/-! ## The data shapes (20_memory.md) -/

/-- The more significant byte of a word, `w[15:8]`. -/
def wordHigh (w : Word) : Byte := w.extractLsb' 8 8

/-- The less significant byte of a word, `w[7:0]`. -/
def wordLow (w : Word) : Byte := w.extractLsb' 0 8

/-- The word `{hi, lo}`. -/
def wordOf (hi lo : Byte) : Word := hi ++ lo

/-- `PACK`: each word most significant byte first, words in index order (R41). -/
def pack : List Word → List Byte
  | [] => []
  | w :: ws => wordHigh w :: wordLow w :: pack ws

/-- `UNPACK`: two adjacent bytes to a word, the first the more significant (R42). The spec does not define it on an odd length
and never applies it to one (R49); here a last unpaired byte is dropped (assumption log, entry 8). -/
def unpack : List Byte → List Word
  | hi :: lo :: rest => wordOf hi lo :: unpack rest
  | _ => []

/-! ## Unit BOT (41_byte_order_mux.md) -/

/-- `BOT(order, B)`: the whole sequence reversed when `order` differs from `HOST_ORDER`, else passed through (R95, R96). -/
def bot (host order : Order) (b : List Byte) : List Byte :=
  if order ≠ host then b.reverse else b

/-! ## Unit WSW and the composites (42_word_swapper.md) -/

/-- `WSW(sw, W)`: the word sequence reversed when `sw` is set (R105, R106). -/
def wsw (sw : Bool) (w : List Word) : List Word :=
  if sw then w.reverse else w

/-- The two-byte groups of a byte sequence in reverse order, each group's two bytes in their own order (R107). Not defined by the
spec on an odd length; a last unpaired byte is dropped (assumption log, entry 8). -/
def reverseGroups : List Byte → List Byte
  | b0 :: b1 :: rest => reverseGroups rest ++ [b0, b1]
  | _ => []

/-- `WSWB(sw, B)`: the word swap on the byte form (R107). -/
def wswb (sw : Bool) (b : List Byte) : List Byte :=
  if sw then reverseGroups b else b

/-- `W2B(W)`: registers to host-order bytes, in the order of steps R111 takes as its definition. -/
def w2b (host : Order) (k : CodecConfig) (w : List Word) : List Byte :=
  bot host k.order (pack (wsw k.wswap w))

/-- `B2W(H)`: host-order bytes to registers (R113). -/
def b2w (host : Order) (k : CodecConfig) (h : List Byte) : List Word :=
  wsw k.wswap (unpack (bot host k.order h))

/-! ## Units I2B and B2I (43_int_serializers.md) -/

/-- `I2B(w, X)`: the `w/8` bytes of `X` in host order (R126). -/
def i2b (host : Order) (w : Nat) (x : BitVec w) : List Byte :=
  match host with
  | .little => (List.range (w / 8)).map fun j => x.extractLsb' (8 * j) 8
  | .big => (List.range (w / 8)).map fun j => x.extractLsb' (w - 8 - 8 * j) 8

/-- The pattern whose bytes are the given ones, least significant first. -/
def fromLittle (w : Nat) : List Byte → BitVec w
  | [] => 0#w
  | b :: bs => b.setWidth w ||| (fromLittle w bs <<< 8)

/-- `B2I(w, H)`: the `w`-bit pattern whose bytes in host order are `H` (R127). -/
def b2i (host : Order) (w : Nat) (h : List Byte) : BitVec w :=
  match host with
  | .little => fromLittle w h
  | .big => fromLittle w h.reverse

/-! ## Lanes -/

/-- The data lanes of a command and of a response (10_state.md R29 to R31). -/
inductive Lane where
  | val
  | bseq
  | wseq
deriving DecidableEq, Repr

/-- The lane an operation reads, if any: column "reads lanes" of R66. -/
def readsLane : Instr → Option Lane
  | .cfg _ _ => none
  | .bot => some .bseq
  | .wsw => some .wseq
  | .b2w _ => some .bseq
  | .w2b => some .wseq
  | .seri _ _ _ => some .val
  | .desi _ _ => some .wseq
  | .serf _ => some .val
  | .desf => some .wseq

/-- The lane an operation's result is on, if any: column "result lanes" of R66. -/
def resultLane : Instr → Option Lane
  | .cfg _ _ => none
  | .bot => some .bseq
  | .wsw => some .wseq
  | .b2w _ => some .wseq
  | .w2b => some .bseq
  | .seri _ _ _ => some .wseq
  | .desi _ _ => some .val
  | .serf _ => some .wseq
  | .desf => some .val

/-- The lane a result's data are on (30_encoding.md R71). -/
def Result.lane : Result → Option Lane
  | .nothing => none
  | .bytes _ => some .bseq
  | .words _ => some .wseq
  | .value _ => some .val

/-- A command the lanes can carry: at most `2*NMAX` bytes and at most `NMAX` words (10_state.md R30, R31). -/
def Command.presentable (p : Params) (c : Command) : Bool :=
  decide (c.bseq.length ≤ 2 * p.nmax) && decide (c.wseq.length ≤ p.nmax)

/-- A result the lanes can carry (R30, R31). -/
def Result.fits (p : Params) : Result → Bool
  | .nothing => true
  | .bytes b => decide (b.length ≤ 2 * p.nmax)
  | .words w => decide (w.length ≤ p.nmax)
  | .value _ => true

end Sys2Proof.Machine
end

