-- ==== Sys2Proof/Machine/Flags.lean ====
section
/-! DEFINITION. The block has no flags or condition codes (10_state.md R28): the outcome of a command is the STATUS of its own
response (60_exceptions.md R166). Here are the status codes and the conditions that decide them: the width sets, the range check
`FITS`, the float's width check. -/

namespace Sys2Proof.Machine

/-- The code of an error (R166). -/
def ErrorKind.code : ErrorKind → Status
  | .unsupportedEncoding => 1
  | .unsupportedType => 2
  | .unsupportedLength => 3
  | .lengthMismatch => 6
  | .rangeError => 8
  | .notConfigured => 9

/-- STATUS of a response: 0 on success, else the error's code (30_encoding.md R71, 60_exceptions.md R166). -/
def statusOf : Response → Status
  | .ok _ => 0
  | .error e => e.code

/-- The place of an error in the fixed order of checks (60_exceptions.md R176). -/
def ErrorKind.priority : ErrorKind → Nat
  | .unsupportedEncoding => 1
  | .notConfigured => 2
  | .unsupportedLength => 3
  | .lengthMismatch => 4
  | .unsupportedType => 5
  | .rangeError => 6

/-- The register counts of an integer: `{1, 2, 4, 8}`, without 8 when K = 1 (43_int_serializers.md R125, R133). -/
def intLengths (scaled : Bool) : List Nat :=
  if scaled then [1, 2, 4] else [1, 2, 4, 8]

/-- The register counts of a float (44_float_reinterpret.md R150). -/
def floatLengths : List Nat := [2, 4]

/-- `FITS(S, w, VAL)`: the integer on VAL is representable at width `w` (43_int_serializers.md R130). -/
def fits (signed : Bool) (w : Nat) (v : Val) : Bool :=
  if 128 ≤ w then true
  else if signed then
    v.extractLsb' (w - 1) (129 - w) == 0 || v.extractLsb' (w - 1) (129 - w) == BitVec.allOnes (129 - w)
  else v.extractLsb' w (128 - w) == 0

/-- `VAL[127:w] = 0`, the check of `SERF` (44_float_reinterpret.md R154). -/
def upperZero (w : Nat) (v : Val) : Bool := v.extractLsb' w (128 - w) == 0

/-- The extension of a `w`-bit pattern to VAL: `sext_128` when S = 1, `zext_128` when S = 0 (43_int_serializers.md R132). -/
def extend (signed : Bool) (w : Nat) (x : BitVec w) : Val :=
  if signed then x.signExtend 128 else x.setWidth 128

end Sys2Proof.Machine
end

