-- ==== Sys2Proof/Machine/Ops.lean ====
section
/-! DEFINITION. The named operations over the state: the scratch buffer of one command, taking the next command, completing a
command, raising an error (the one shared operation for every error of 60_exceptions.md), and the frame of a data command. -/

namespace Sys2Proof.Machine

/-! ## The scratch buffer BUF (10_state.md R33, 00_scope.md R13) -/

/-- BUF, byte addressed from 0; it lives inside one command (R33). -/
abbrev Scratch := List Byte

/-- BUF when a command begins: `2*NMAX` bytes of unspecified content (R33, R35; assumption log, entry 7). -/
def Scratch.fresh (p : Params) : Scratch := (List.range (2 * p.nmax)).map Config.scratchByte

/-- `MemWrite(addr, n, v)`, `n` being the length of `v`: stores `v` at `BUF[addr] ..` (R13). -/
def memWrite (buf : Scratch) (addr : Nat) (v : List Byte) : Scratch :=
  buf.take addr ++ v ++ buf.drop (addr + v.length)

/-- `MemRead(addr, n)`: the `n` bytes `BUF[addr] .. BUF[addr+n-1]`, in index order (R13). -/
def memRead (buf : Scratch) (addr n : Nat) : List Byte := (buf.drop addr).take n

/-- The last stage of a serialise operation: a host-order buffer of `2*n` bytes to registers (42_word_swapper.md R113, R119). -/
def bufferToRegisters (p : Params) (k : CodecConfig) (buf : Scratch) (n : Nat) (h : List Byte) : List Word :=
  b2w p.hostOrder k (memRead (memWrite buf 0 h) 0 (2 * n))

/-- The first stage of a deserialise operation: registers to the host-order buffer (R111, R119). -/
def registersToBuffer (p : Params) (k : CodecConfig) (buf : Scratch) (w : List Word) : List Byte :=
  memRead (memWrite buf 0 (w2b p.hostOrder k w)) 0 (2 * w.length)

/-! ## Commands and responses -/

/-- The end of a successful command: its result is the response, and the command is no longer pending (30_encoding.md R71,
20_memory.md R55). -/
def State.complete (s : State) (r : Result) : State :=
  { s with pending := s.pending.tail, responses := s.responses ++ [.ok r] }

/-- `raise E`: the command ends with the error as its response, no data and no change of CFG (00_scope.md R13,
60_exceptions.md R177). -/
def State.raise (s : State) (e : ErrorKind) : State :=
  { s with pending := s.pending.tail, responses := s.responses ++ [.error e] }

/-- The end of a command with a given response. -/
def State.answer (s : State) : Response → State
  | .ok r => s.complete r
  | .error e => s.raise e

/-- CFG written as a whole: WSWAP, ORDER, and CFGV set (40_config.md R90, R91). -/
def State.configure (s : State) (k : CodecConfig) : State := { s with cfg := some k }

/-- The three bits of CFG once it is configured: CFGV, WSWAP, ORDER (10_state.md R22). No operation reads them back (R23). -/
def cfgBits (k : CodecConfig) : BitVec 3 := 1#1 ++ BitVec.ofBool k.wswap ++ BitVec.ofBool k.order.toBit

/-- What the next command of the host's stream is. -/
inductive Presented where
  /-- No command: the block is idle (60_exceptions.md R186). -/
  | idle
  /-- A command the lanes carry. -/
  | command (c : Command)
  /-- A sequence longer than its lane: no such command can be presented (10_state.md R30, R31). -/
  | tooLong
deriving DecidableEq, Repr

/-- The command the block executes next: commands are taken in the order presented (10_state.md R27, 20_memory.md R55). -/
def State.presented (s : State) : Presented :=
  match s.pending with
  | [] => .idle
  | c :: _ => if c.presentable s.params then .command c else .tooLong

/-- The frame of every meaning: the command whose lanes it reads is the pending one. -/
def withCommand (s : State) (f : Command → State) : Host.Outcome State Fault Refusal :=
  match s.pending with
  | [] => .fault .noCommand
  | c :: _ => .next (f c)

/-- The response of a data operation: `NotConfigured` while CFGV = 0 (60_exceptions.md R175), else what the operation gives under
CFG, for a scratch buffer of unspecified content. -/
def dataResponse (s : State) (f : CodecConfig → Scratch → Command → Response) (c : Command) : Response :=
  match s.cfg with
  | none => .error .notConfigured
  | some k => f k (Scratch.fresh s.params) c

/-- The frame of every operation but `CFG`: a response, and no change of CFG (00_scope.md R15). -/
def dataCommand (s : State) (f : CodecConfig → Scratch → Command → Response) : Host.Outcome State Fault Refusal :=
  withCommand s fun c => s.answer (dataResponse s f c)

/-- A command as the host presents it with nothing on its data lanes. -/
def Command.bare (h : Header) : Command := { hdr := h, val := 0, bseq := [], wseq := [] }

/-- The host presents a command ahead of the pending ones. -/
def State.present (s : State) (c : Command) : State := { s with pending := c :: s.pending }

end Sys2Proof.Machine
end

