-- ==== Sys2Proof/Machine/Configuration.lean ====
section
/-! DEFINITION. The configuration operation (40_config.md). -/

namespace Sys2Proof.Machine

/-- `CFG`: WSWAP and ORDER are written from the header and CFGV is set; no data, no error of its own (R90). It needs no
CFGV = 1 and no privilege (R90, R92). -/
def execCfg (wswap : Bool) (order : Order) (s : State) : Host.Outcome State Fault Refusal :=
  withCommand s fun _ => (s.configure { wswap := wswap, order := order }).complete .nothing

end Sys2Proof.Machine
end

