-- ==== Sys2Proof/Machine/Float.lean ====
section
/-! DEFINITION. The float operations (44_float_reinterpret.md R154, R155), which move bit patterns and compute nothing (R157), and
the two IEEE-754 layouts, which no operation reads (R151, R152). -/

namespace Sys2Proof.Machine

/-- The response of `SERF` under a configuration (R154): length, then type, then the registers. -/
def serfResponse (p : Params) (k : CodecConfig) (buf : Scratch) (len : Nat) (v : Val) : Response :=
  if len ∉ floatLengths then .error .unsupportedLength
  else if upperZero (16 * len) v = false then .error .unsupportedType
  else .ok (.words (bufferToRegisters p k buf len (i2b p.hostOrder (16 * len) (v.setWidth (16 * len)))))

/-- The response of `DESF` under a configuration (R155). -/
def desfResponse (p : Params) (k : CodecConfig) (buf : Scratch) (w : List Word) : Response :=
  if w.length ∉ floatLengths then .error .unsupportedLength
  else .ok (.value ((b2i p.hostOrder (16 * w.length) (registersToBuffer p k buf w)).setWidth 128))

/-- `SERF`: float bit pattern to registers (R154). -/
def execSerf (len : Nat) (s : State) : Host.Outcome State Fault Refusal :=
  dataCommand s fun k buf c => serfResponse s.params k buf len c.val

/-- `DESF`: registers to float bit pattern (R155). -/
def execDesf (s : State) : Host.Outcome State Fault Refusal :=
  dataCommand s fun k buf c => desfResponse s.params k buf c.wseq

/-! ## The layouts (R151, R152) -/

/-- The kinds of number a pattern denotes (R151). -/
inductive FloatClass where
  | zero
  | subnormal
  | normal
  | infinity
  | quietNaN
  | signalingNaN
deriving DecidableEq, Repr

/-- The kind of a pattern with the given exponent field, whose greatest value is `top`, significand field, and quiet bit (R151). -/
def floatClass (top exponent significand : Nat) (quiet : Bool) : FloatClass :=
  if exponent = 0 then (if significand = 0 then .zero else .subnormal)
  else if exponent = top then
    (if significand = 0 then .infinity else if quiet then .quietNaN else .signalingNaN)
  else .normal

/-- binary32: sign 31, exponent 30:23, significand 22:0, quiet bit 22 (R151; assumption log, entry 16). -/
def singleClass (v : Val) : FloatClass :=
  floatClass 255 (v.extractLsb' 23 8).toNat (v.extractLsb' 0 23).toNat (v.getLsbD 22)

/-- binary64: sign 63, exponent 62:52, significand 51:0, quiet bit 51 (R152; assumption log, entry 16). -/
def doubleClass (v : Val) : FloatClass :=
  floatClass 2047 (v.extractLsb' 52 11).toNat (v.extractLsb' 0 52).toNat (v.getLsbD 51)

/-- The sign bit of a single (R151). -/
def singleSign (v : Val) : Bool := v.getLsbD 31

/-- The sign bit of a double (R152). -/
def doubleSign (v : Val) : Bool := v.getLsbD 63

end Sys2Proof.Machine
end

