-- ==== Sys2Proof/Machine/Integer.lean ====
section
/-! DEFINITION. The integer operations (43_int_serializers.md R131, R132). -/

namespace Sys2Proof.Machine

/-- The response of `SERI` under a configuration (R131): length, then range, then the registers. -/
def seriResponse (p : Params) (k : CodecConfig) (buf : Scratch) (signed scaled : Bool) (len : Nat) (v : Val) : Response :=
  if len ∉ intLengths scaled then .error .unsupportedLength
  else if fits signed (16 * len) v = false then .error .rangeError
  else .ok (.words (bufferToRegisters p k buf len (i2b p.hostOrder (16 * len) (v.setWidth (16 * len)))))

/-- The response of `DESI` under a configuration (R132). -/
def desiResponse (p : Params) (k : CodecConfig) (buf : Scratch) (signed scaled : Bool) (w : List Word) : Response :=
  if w.length ∉ intLengths scaled then .error .unsupportedLength
  else .ok (.value (extend signed (16 * w.length) (b2i p.hostOrder (16 * w.length) (registersToBuffer p k buf w))))

/-- `SERI`: integer to registers (R131). -/
def execSeri (signed scaled : Bool) (len : Nat) (s : State) : Host.Outcome State Fault Refusal :=
  dataCommand s fun k buf c => seriResponse s.params k buf signed scaled len c.val

/-- `DESI`: registers to integer (R132). -/
def execDesi (signed scaled : Bool) (s : State) : Host.Outcome State Fault Refusal :=
  dataCommand s fun k buf c => desiResponse s.params k buf signed scaled c.wseq

end Sys2Proof.Machine
end

