-- ==== Sys2Proof/Machine/Leaf.lean ====
section
/-! DEFINITION. The leaf operations: one unit alone (41_byte_order_mux.md R99, 42_word_swapper.md R109). -/

namespace Sys2Proof.Machine

/-- `BOT`: the byte-order multiplexer on the byte lane, for every presentable length (R99). CFG.WSWAP is not read. -/
def execBot (s : State) : Host.Outcome State Fault Refusal :=
  dataCommand s fun k _ c => .ok (.bytes (bot s.params.hostOrder k.order c.bseq))

/-- `WSW`: the word swapper on the word lane, for every presentable length (R109). CFG.ORDER and `HOST_ORDER` are not read. -/
def execWsw (s : State) : Host.Outcome State Fault Refusal :=
  dataCommand s fun k _ c => .ok (.words (wsw k.wswap c.wseq))

end Sys2Proof.Machine
end

