-- ==== Sys2Proof/Machine/RawBytes.lean ====
section
/-! DEFINITION. The raw-byte pipeline operations (42_word_swapper.md R117, R118). -/

namespace Sys2Proof.Machine

/-- The response of `B2W` under a configuration (R117). -/
def b2wResponse (p : Params) (k : CodecConfig) (buf : Scratch) (len : Nat) (h : List Byte) : Response :=
  if len = 0 ∨ p.nmax < len then .error .unsupportedLength
  else if h.length ≠ 2 * len then .error .lengthMismatch
  else .ok (.words (bufferToRegisters p k buf len h))

/-- The response of `W2B` under a configuration (R118). -/
def w2bResponse (p : Params) (k : CodecConfig) (buf : Scratch) (w : List Word) : Response :=
  if w.length = 0 then .error .unsupportedLength
  else .ok (.bytes (registersToBuffer p k buf w))

/-- `B2W`: host-order bytes to registers (R117). -/
def execB2w (len : Nat) (s : State) : Host.Outcome State Fault Refusal :=
  dataCommand s fun k buf c => b2wResponse s.params k buf len c.bseq

/-- `W2B`: registers to host-order bytes (R118). -/
def execW2b (s : State) : Host.Outcome State Fault Refusal :=
  dataCommand s fun k buf c => w2bResponse s.params k buf c.wseq

end Sys2Proof.Machine
end

