-- ==== Sys2Proof/Machine/Dispatch.lean ====
section
/-! DEFINITION. One arm per instruction, each a direct call of its meaning. -/

namespace Sys2Proof.Machine

def exec (i : Instr) (s : State) : Host.Outcome State Fault Refusal :=
  match i with
  | .cfg wswap order => Sys2Proof.Machine.execCfg wswap order s
  | .bot => Sys2Proof.Machine.execBot s
  | .wsw => Sys2Proof.Machine.execWsw s
  | .b2w len => Sys2Proof.Machine.execB2w len s
  | .w2b => Sys2Proof.Machine.execW2b s
  | .seri signed scaled len => Sys2Proof.Machine.execSeri signed scaled len s
  | .desi signed scaled => Sys2Proof.Machine.execDesi signed scaled s
  | .serf len => Sys2Proof.Machine.execSerf len s
  | .desf => Sys2Proof.Machine.execDesf s

end Sys2Proof.Machine
end

