-- ==== Sys2Proof/Machine/Step.lean ====
section
/-! DEFINITION. One step: the block executes the next command the host has presented (00_scope.md R10, 20_memory.md R55). -/

namespace Sys2Proof.Machine

/-- One step. With no command presented the block is idle (60_exceptions.md R186; assumption log, entry 5). The header is decoded
first: an illegal one answers `UnsupportedEncoding` before CFG or any lane is looked at (R168). -/
def step (s : State) : Host.Outcome State Fault Refusal :=
  match s.presented with
  | .idle => .next s
  | .tooLong => .refused .notPresentable
  | .command c =>
    match decode c.hdr with
    | none => .next (s.raise .unsupportedEncoding)
    | some i => exec i s

/-- The instruction presented as the next command, with its other lanes empty and VAL zero. The block fetches nothing: the host
presents each command (10_state.md R27; assumption log, entry 10). -/
def State.withFetchWord (s : State) (nbits w : Nat) : State :=
  s.present (Command.bare (BitVec.ofNat 16 (w % 2 ^ nbits)))

end Sys2Proof.Machine
end

