-- ==== Sys2Proof/Machine/Interface.lean ====
section
/-! DEFINITION. MPG's three public operations and seven encoding tags as commands of the block (30_encoding.md R75, R76). The
host's own conversions around the block are out of scope (00_scope.md R5). -/

namespace Sys2Proof.Machine

/-- MPG's closed set of encoding tags (R76). -/
inductive EncodingTag where
  | int
  | intAndScaleFactor
  | ieee754
  | utf8
  | utf16
  | ipAddress
  | rawBytes
deriving DecidableEq, Repr

/-- `Construct(wordSwap, byteOrder)` is one `CFG` command (R75). -/
def constructInstr (wordSwap : Bool) (byteOrder : Order) : Instr := .cfg wordSwap byteOrder

/-- `Serialize`: the serialise-direction command the tag chooses, with `LEN = targetLengthWords` and `S = signed` (R75, R76). -/
def serializeInstr (tag : EncodingTag) (targetLengthWords : Nat) (signed : Bool) : Instr :=
  match tag with
  | .int => .seri signed false targetLengthWords
  | .intAndScaleFactor => .seri signed true targetLengthWords
  | .ieee754 => .serf targetLengthWords
  | .utf8 => .b2w targetLengthWords
  | .utf16 => .b2w targetLengthWords
  | .ipAddress => .b2w targetLengthWords
  | .rawBytes => .b2w targetLengthWords

/-- `Deserialize`: the deserialise-direction command the tag chooses (R75, R76). -/
def deserializeInstr (tag : EncodingTag) (signed : Bool) : Instr :=
  match tag with
  | .int => .desi signed false
  | .intAndScaleFactor => .desi signed true
  | .ieee754 => .desf
  | .utf8 => .w2b
  | .utf16 => .w2b
  | .ipAddress => .w2b
  | .rawBytes => .w2b

end Sys2Proof.Machine
end

