-- ==== Sys2Proof/Safety.lean ====
section
/-! DEFINITION. The terms the claims use: the lanes' capacities as an invariant, the causes of the errors, and the closed forms of
the register layouts. Nothing here is used by a meaning. -/

namespace Sys2Proof.Machine

/-- The lanes of a response carry it: no data on an error, else a result within the lane (10_state.md R30, R31). -/
def responseFits (p : Params) : Response → Bool
  | .ok r => r.fits p
  | .error _ => true

/-- Every pending command is one the lanes can present, and every response given is one the lanes can carry (R30, R31). -/
def State.lanesFit (s : State) : Bool :=
  s.pending.all (fun c => c.presentable s.params) && s.responses.all (fun r => responseFits s.params r)

/-- Two commands that present the same data on a lane; every pair does so on no lane. -/
def sameOnLane : Option Lane → Command → Command → Prop
  | none, _, _ => True
  | some .val, c, d => c.val = d.val
  | some .bseq, c, d => c.bseq = d.bseq
  | some .wseq, c, d => c.wseq = d.wseq

/-- The header spells none of the nine operations (30_encoding.md R68, written out). -/
def illegalHeader (h : Header) : Prop :=
  h &&& 0xFFFC ≠ 0x1000 ∧ h &&& 0xFFFF ≠ 0x2000 ∧ h &&& 0xFFFF ≠ 0x3000 ∧
  h &&& 0xFF00 ≠ 0x4000 ∧ h &&& 0xFFFF ≠ 0x5000 ∧ h &&& 0xF300 ≠ 0x6000 ∧
  h &&& 0xF3FF ≠ 0x7000 ∧ h &&& 0xFF00 ≠ 0x8000 ∧ h &&& 0xFFFF ≠ 0x9000

/-- The operation writes CFG (40_config.md R92). -/
def isCfg : Instr → Bool
  | .cfg _ _ => true
  | .bot => false
  | .wsw => false
  | .b2w _ => false
  | .w2b => false
  | .seri _ _ _ => false
  | .desi _ _ => false
  | .serf _ => false
  | .desf => false

/-- The table of R170: the operation has a length outside the ones it accepts. -/
def lengthUnsupported (p : Params) (c : Command) : Instr → Prop
  | .cfg _ _ => False
  | .bot => False
  | .wsw => False
  | .b2w n => n = 0 ∨ p.nmax < n
  | .w2b => c.wseq.length = 0
  | .seri _ k n => n ∉ (if k then [1, 2, 4] else [1, 2, 4, 8])
  | .desi _ k => c.wseq.length ∉ (if k then [1, 2, 4] else [1, 2, 4, 8])
  | .serf n => n ∉ [2, 4]
  | .desf => c.wseq.length ∉ [2, 4]

/-- The cause of an error holds of a command (60_exceptions.md R168 to R172, R175), each by itself, whatever the others. -/
def causeHolds (p : Params) (cfg : Option CodecConfig) (c : Command) : ErrorKind → Prop
  | .unsupportedEncoding => illegalHeader c.hdr
  | .notConfigured => cfg = none ∧ ∃ i, decode c.hdr = some i ∧ isCfg i = false
  | .unsupportedLength => ∃ i, decode c.hdr = some i ∧ lengthUnsupported p c i
  | .lengthMismatch => ∃ n, decode c.hdr = some (.b2w n) ∧ c.bseq.length ≠ 2 * n
  | .unsupportedType => ∃ n, decode c.hdr = some (.serf n) ∧ upperZero (16 * n) c.val = false
  | .rangeError => ∃ g k n, decode c.hdr = some (.seri g k n) ∧ fits g (16 * n) c.val = false

/-- What an operation other than `CFG` answers: `NotConfigured` while CFGV = 0 (60_exceptions.md R175), else what it gives under
the configuration. -/
def underCfg (s : State) (f : CodecConfig → Response) : Response :=
  match s.cfg with
  | none => .error .notConfigured
  | some k => f k

/-- Register `i` of the table of 20_memory.md R46 and R47: `x` gives the bytes, `len` their number, `swap` is WSWAP, and `differ`
is the second column (ORDER is `little` in R46, ORDER differs from `HOST_ORDER` in R47). -/
def layoutWord (swap differ : Bool) (len : Nat) (x : Nat → Byte) (i : Nat) : Word :=
  match swap, differ with
  | false, false => wordOf (x (2 * i)) (x (2 * i + 1))
  | false, true => wordOf (x (len - 1 - 2 * i)) (x (len - 2 - 2 * i))
  | true, false => wordOf (x (len - 2 - 2 * i)) (x (len - 1 - 2 * i))
  | true, true => wordOf (x (2 * i + 1)) (x (2 * i))

/-- Byte `j` of the low `w` bits of VAL, from most significant to least (R46). -/
def valueByte (w : Nat) (v : Val) (j : Nat) : Byte := v.extractLsb' (w - 8 - 8 * j) 8

/-- The state with the other value of `HOST_ORDER` (43_int_serializers.md R134). -/
def State.withHostOrder (s : State) (o : Order) : State := { s with params := { s.params with hostOrder := o } }

end Sys2Proof.Machine
end

