-- ==== Sys2Proof/Certificates/Slice0/Obligations.lean ====
section
/-! DEFINITION. The statements for the provers. A statement about an operation is about every state in which a command is pending;
`s.answer r`, `s.complete r` and `s.raise e` take the pending command away and append its response. -/

open Sys2Proof Sys2Proof.Machine

/-! ## Reset, invariants, the step -/

/-- 10_state.md R35 (section 8): after reset CFGV is 0 and CFG has no value, no command and no response is pending, and the
parameters are the instance's. -/
def Obligations.ResetLeavesBlockUnconfigured : Prop :=
  State.reset.cfgv = false ∧ State.reset.cfg = none ∧ State.reset.pending = [] ∧ State.reset.responses = [] ∧
    State.reset.params = Config.params

/-- The lane bounds of 10_state.md section 6 hold at reset. -/
def Obligations.LaneBoundsHoldAtReset : Prop := State.reset.lanesFit = true

/-- Whatever the pending commands are, a step keeps every response within the lanes of 10_state.md section 6: byte results of at
most `2*NMAX` bytes, word results of at most `NMAX` words (for `SERI` and `SERF` because `NMAX` is at least 9, 00_scope.md
section 4). -/
def Obligations.StepKeepsLaneBounds : Prop :=
  ∀ s t : State, s.lanesFit = true → step s = .next t → t.lanesFit = true

/-- 10_state.md R24: a step changes CFG only when the command it executes is a `CFG` command, and then CFG is that header's
pair. -/
def Obligations.CfgChangesOnlyByCfgCommand : Prop :=
  ∀ s t : State, step s = .next t → t.cfg = s.cfg ∨
    ∃ c rest, s.pending = c :: rest ∧ c.hdr &&& 0xFFFC = 0x1000 ∧
      t.cfg = some { wswap := c.hdr.getLsbD 1, order := if c.hdr.getLsbD 0 then .little else .big }

/-- 00_scope.md section 4: no step changes `NMAX` or `HOST_ORDER`. That the parameters stand in State is the model's choice (log
entry 2). -/
def Obligations.InstanceParametersNeverChange : Prop :=
  ∀ s t : State, step s = .next t → t.params = s.params

/-- A step runs the decoded instruction: a presentable command whose header decodes to `i` is executed by `exec i`, with nothing
around it. -/
def Obligations.StepRunsDecodedInstruction : Prop :=
  ∀ (s : State) (c : Command) (rest : List Command) (i : Instr),
    s.pending = c :: rest → c.presentable s.params = true → decode c.hdr = some i → step s = exec i s

/-- Every presentable command terminates with exactly one response, and commands are taken in the order presented
(70_reset_and_hazards.md section 4, 20_memory.md section 6). -/
def Obligations.EveryCommandIsAnsweredOnce : Prop :=
  ∀ (s : State) (c : Command) (rest : List Command), s.pending = c :: rest → c.presentable s.params = true →
    ∃ t r, step s = .next t ∧ t.pending = rest ∧ t.responses = s.responses ++ [r]

/-- The step never faults, and refuses only a command that no lane carries (the model's choices: log entries 6 and 9). -/
def Obligations.StepStopsOnlyOnUnpresentableCommand : Prop :=
  ∀ s : State, (∀ f, step s ≠ .fault f) ∧
    (∀ q, step s = .refused q ↔
      q = .notPresentable ∧ ∃ c rest, s.pending = c :: rest ∧ c.presentable s.params = false)

/-- With no command presented a step changes nothing (the model's choice: log entry 5). -/
def Obligations.IdleBlockKeepsItsState : Prop :=
  ∀ s : State, s.pending = [] → step s = .next s

/-- The header of a table row, presented as the next command, is what the next step runs, where it decodes (the model's choice:
log entry 10). -/
def Obligations.PresentedTableWordRuns : Prop :=
  ∀ (s : State) (w : Nat) (i : Instr), w < 65536 → decodeTableWord 16 w = some i →
    step (s.withFetchWord 16 w) = exec i (s.withFetchWord 16 w)

/-! ## Decoding -/

/-- 30_encoding.md section 3: a header that matches a row decodes to that row's operation with its fields. -/
def Obligations.DecodeFollowsOpcodeTable : Prop :=
  ∀ h : Header,
    (h &&& 0xFFFC = 0x1000 → decode h = some (.cfg (h.getLsbD 1) (if h.getLsbD 0 then .little else .big))) ∧
    (h &&& 0xFFFF = 0x2000 → decode h = some .bot) ∧
    (h &&& 0xFFFF = 0x3000 → decode h = some .wsw) ∧
    (h &&& 0xFF00 = 0x4000 → decode h = some (.b2w (h.extractLsb' 0 8).toNat)) ∧
    (h &&& 0xFFFF = 0x5000 → decode h = some .w2b) ∧
    (h &&& 0xF300 = 0x6000 → decode h = some (.seri (h.getLsbD 11) (h.getLsbD 10) (h.extractLsb' 0 8).toNat)) ∧
    (h &&& 0xF3FF = 0x7000 → decode h = some (.desi (h.getLsbD 11) (h.getLsbD 10))) ∧
    (h &&& 0xFF00 = 0x8000 → decode h = some (.serf (h.extractLsb' 0 8).toNat)) ∧
    (h &&& 0xFFFF = 0x9000 → decode h = some .desf)

/-- 30_encoding.md section 3 ("The masks of rule R66 are disjoint", which the spec marks as derived): a header that spells two rows
spells one row. -/
def Obligations.OpcodeRowsAreDisjoint : Prop :=
  ∀ r ∈ opcodeTable, ∀ q ∈ opcodeTable, ∀ h : Header, r.spells h = true → q.spells h = true → r.spelling = q.spelling

/-- 30_encoding.md R68: a header is illegal exactly when it matches none of the nine; an illegal header answers
`UnsupportedEncoding` and changes nothing else, whatever the other lanes hold and whatever CFGV is; the all-zero and the all-ones
header are illegal. -/
def Obligations.IllegalHeaderAnswersUnsupportedEncoding : Prop :=
  (∀ h : Header, decode h = none ↔ illegalHeader h) ∧ illegalHeader 0x0000 ∧ illegalHeader 0xFFFF ∧
  ∀ (s : State) (c : Command) (rest : List Command), s.pending = c :: rest → c.presentable s.params = true →
    illegalHeader c.hdr →
    step s = .next { s with pending := rest, responses := s.responses ++ [.error .unsupportedEncoding] }

/-- Decode of encode: every well-formed instruction, with every value of every field, is read back. -/
def Obligations.DecodeOfEncodeIsTheInstruction : Prop :=
  ∀ i : Instr, i.wellFormed = true → decode (encode i) = some i

/-- Encode of decode: a legal header has one spelling, so no bit of it is dropped. -/
def Obligations.EncodeOfDecodeIsTheHeader : Prop :=
  ∀ (h : Header) (i : Instr), decode h = some i → i.wellFormed = true ∧ encode i = h

/-- Headers of 30_encoding.md section 6, one of each family, written out. -/
def Obligations.HeadersWrittenOutDecode : Prop :=
  decode 0x1002 = some (.cfg true .big) ∧ decode 0x2000 = some .bot ∧ decode 0x3000 = some .wsw ∧
  decode 0x4009 = some (.b2w 9) ∧ decode 0x5000 = some .w2b ∧ decode 0x6802 = some (.seri true false 2) ∧
  decode 0x7400 = some (.desi false true) ∧ decode 0x8004 = some (.serf 4) ∧ decode 0x9000 = some .desf

/-! ## Errors -/

/-- 60_exceptions.md R175: a legal command other than `CFG` before the first `CFG` answers `NotConfigured`. -/
def Obligations.DataCommandBeforeCfgAnswersNotConfigured : Prop :=
  ∀ (s : State) (c : Command) (rest : List Command) (i : Instr),
    s.pending = c :: rest → c.presentable s.params = true → s.cfg = none → decode c.hdr = some i → isCfg i = false →
    step s = .next { s with pending := rest, responses := s.responses ++ [.error .notConfigured] }

/-- 60_exceptions.md R177: a command that fails leaves CFG and everything else as it was, and its response is the error's
non-zero status and no data. -/
def Obligations.FailedCommandLeavesNoTrace : Prop :=
  ∀ (s t : State) (e : ErrorKind), step s = .next t → t.responses = s.responses ++ [.error e] →
    t = { s with pending := s.pending.tail, responses := s.responses ++ [.error e] } ∧ statusOf (.error e) = e.code ∧ e.code ≠ 0

/-- The codes of the table of 60_exceptions.md section 1. -/
def Obligations.StatusCodesFollowTable : Prop :=
  (∀ r : Result, statusOf (.ok r) = 0) ∧ statusOf (.error .unsupportedEncoding) = 1 ∧
  statusOf (.error .unsupportedType) = 2 ∧ statusOf (.error .unsupportedLength) = 3 ∧
  statusOf (.error .lengthMismatch) = 6 ∧ statusOf (.error .rangeError) = 8 ∧ statusOf (.error .notConfigured) = 9

/-- 60_exceptions.md R181: no response has a reserved or unused code. -/
def Obligations.ReservedStatusCodesAreNeverDriven : Prop :=
  ∀ r : Response, statusOf r ≠ 4 ∧ statusOf r ≠ 5 ∧ statusOf r ≠ 7 ∧ ∀ c : Status, 10 ≤ c → statusOf r ≠ c

/-- 60_exceptions.md R176: the error reported is one whose cause holds, and no error earlier in the fixed order has its cause; a
command succeeds only when no cause holds. -/
def Obligations.ErrorsFollowFixedPriority : Prop :=
  ∀ (s t : State) (c : Command) (rest : List Command) (r : Response),
    s.pending = c :: rest → step s = .next t → t.responses = s.responses ++ [r] →
    (∀ e, r = .error e → causeHolds s.params s.cfg c e ∧
      ∀ e', causeHolds s.params s.cfg c e' → e.priority ≤ e'.priority) ∧
    (∀ v, r = .ok v → ∀ e, ¬ causeHolds s.params s.cfg c e)

/-! ## The nine operations -/

/-- 40_config.md R90. -/
def Obligations.CfgCommand : Prop :=
  ∀ (s : State) (c : Command) (rest : List Command), s.pending = c :: rest →
    (∀ w o, exec (.cfg w o) s =
      .next { s with cfg := some { wswap := w, order := o }, pending := rest, responses := s.responses ++ [.ok .nothing] }) ∧
    (c.presentable s.params = true → c.hdr.extractLsb' 12 4 = 1 →
      step s = if c.hdr.extractLsb' 2 10 = 0 then
          exec (.cfg (c.hdr.getLsbD 1) (if c.hdr.getLsbD 0 then .little else .big)) s
        else .next (s.raise .unsupportedEncoding))

/-- 41_byte_order_mux.md R99, with the function of R96. -/
def Obligations.BotCommand : Prop :=
  ∀ (s : State) (c : Command) (rest : List Command), s.pending = c :: rest →
    exec .bot s = .next (s.answer (underCfg s fun k =>
      .ok (.bytes (if k.order ≠ s.params.hostOrder then c.bseq.reverse else c.bseq)))) ∧
    (c.presentable s.params = true → c.hdr.extractLsb' 12 4 = 2 →
      step s = if c.hdr.extractLsb' 0 12 = 0 then exec .bot s else .next (s.raise .unsupportedEncoding))

/-- 42_word_swapper.md R109, with the function of R106. -/
def Obligations.WswCommand : Prop :=
  ∀ (s : State) (c : Command) (rest : List Command), s.pending = c :: rest →
    exec .wsw s = .next (s.answer (underCfg s fun k =>
      .ok (.words (if k.wswap then c.wseq.reverse else c.wseq)))) ∧
    (c.presentable s.params = true → c.hdr.extractLsb' 12 4 = 3 →
      step s = if c.hdr.extractLsb' 0 12 = 0 then exec .wsw s else .next (s.raise .unsupportedEncoding))

/-- 42_word_swapper.md R117, with the function of R113. -/
def Obligations.B2wCommand : Prop :=
  ∀ (s : State) (c : Command) (rest : List Command), s.pending = c :: rest →
    (∀ len, exec (.b2w len) s = .next (s.answer (underCfg s fun k =>
      if len = 0 ∨ len > s.params.nmax then .error .unsupportedLength
      else if c.bseq.length ≠ 2 * len then .error .lengthMismatch
      else .ok (.words (wsw k.wswap (unpack (bot s.params.hostOrder k.order c.bseq))))))) ∧
    (c.presentable s.params = true → c.hdr.extractLsb' 12 4 = 4 →
      step s = if c.hdr.extractLsb' 8 4 = 0 then exec (.b2w (c.hdr.extractLsb' 0 8).toNat) s
        else .next (s.raise .unsupportedEncoding))

/-- 42_word_swapper.md R118, with the function of R111. -/
def Obligations.W2bCommand : Prop :=
  ∀ (s : State) (c : Command) (rest : List Command), s.pending = c :: rest →
    exec .w2b s = .next (s.answer (underCfg s fun k =>
      if c.wseq.length = 0 then .error .unsupportedLength
      else .ok (.bytes (bot s.params.hostOrder k.order (pack (wsw k.wswap c.wseq)))))) ∧
    (c.presentable s.params = true → c.hdr.extractLsb' 12 4 = 5 →
      step s = if c.hdr.extractLsb' 0 12 = 0 then exec .w2b s else .next (s.raise .unsupportedEncoding))

/-- 43_int_serializers.md R131, with the functions of R113, R126 and R130. -/
def Obligations.SeriCommand : Prop :=
  ∀ (s : State) (c : Command) (rest : List Command), s.pending = c :: rest →
    (∀ signed scaled len, exec (.seri signed scaled len) s = .next (s.answer (underCfg s fun k =>
      if scaled = false ∧ len ∉ [1, 2, 4, 8] then .error .unsupportedLength
      else if scaled = true ∧ len ∉ [1, 2, 4] then .error .unsupportedLength
      else if fits signed (16 * len) c.val = false then .error .rangeError
      else .ok (.words (b2w s.params.hostOrder k (i2b s.params.hostOrder (16 * len) (c.val.setWidth (16 * len)))))))) ∧
    (c.presentable s.params = true → c.hdr.extractLsb' 12 4 = 6 →
      step s = if c.hdr.extractLsb' 8 2 = 0 then
          exec (.seri (c.hdr.getLsbD 11) (c.hdr.getLsbD 10) (c.hdr.extractLsb' 0 8).toNat) s
        else .next (s.raise .unsupportedEncoding))

/-- 43_int_serializers.md R132, with the functions of R111 and R127. -/
def Obligations.DesiCommand : Prop :=
  ∀ (s : State) (c : Command) (rest : List Command), s.pending = c :: rest →
    (∀ signed scaled, exec (.desi signed scaled) s = .next (s.answer (underCfg s fun k =>
      if scaled = false ∧ c.wseq.length ∉ [1, 2, 4, 8] then .error .unsupportedLength
      else if scaled = true ∧ c.wseq.length ∉ [1, 2, 4] then .error .unsupportedLength
      else
        let x := b2i s.params.hostOrder (16 * c.wseq.length) (w2b s.params.hostOrder k c.wseq)
        .ok (.value (if signed then x.signExtend 128 else x.setWidth 128))))) ∧
    (c.presentable s.params = true → c.hdr.extractLsb' 12 4 = 7 →
      step s = if c.hdr.extractLsb' 0 10 = 0 then exec (.desi (c.hdr.getLsbD 11) (c.hdr.getLsbD 10)) s
        else .next (s.raise .unsupportedEncoding))

/-- 44_float_reinterpret.md R154, with the functions of R113 and R126. -/
def Obligations.SerfCommand : Prop :=
  ∀ (s : State) (c : Command) (rest : List Command), s.pending = c :: rest →
    (∀ len, exec (.serf len) s = .next (s.answer (underCfg s fun k =>
      if len ∉ [2, 4] then .error .unsupportedLength
      else if 2 ^ (16 * len) ≤ c.val.toNat then .error .unsupportedType
      else .ok (.words (b2w s.params.hostOrder k (i2b s.params.hostOrder (16 * len) (c.val.setWidth (16 * len)))))))) ∧
    (c.presentable s.params = true → c.hdr.extractLsb' 12 4 = 8 →
      step s = if c.hdr.extractLsb' 8 4 = 0 then exec (.serf (c.hdr.extractLsb' 0 8).toNat) s
        else .next (s.raise .unsupportedEncoding))

/-- 44_float_reinterpret.md R155, with the functions of R111 and R127. -/
def Obligations.DesfCommand : Prop :=
  ∀ (s : State) (c : Command) (rest : List Command), s.pending = c :: rest →
    exec .desf s = .next (s.answer (underCfg s fun k =>
      if c.wseq.length ∉ [2, 4] then .error .unsupportedLength
      else .ok (.value ((b2i s.params.hostOrder (16 * c.wseq.length) (w2b s.params.hostOrder k c.wseq)).setWidth 128)))) ∧
    (c.presentable s.params = true → c.hdr.extractLsb' 12 4 = 9 →
      step s = if c.hdr.extractLsb' 0 12 = 0 then exec .desf s else .next (s.raise .unsupportedEncoding))

/-! ## Frames -/

/-- The frame of all nine operations, 00_scope.md R15. An operation other than `CFG` changes no state: the parameters and CFG are
unchanged, the command is taken and one response is appended, and that response is the same in every state with the same command,
CFG and parameters. `CFG` changes CFG and nothing else, and its response is always success. The block has no memory, no other
register and no flag. -/
def Obligations.OperationsChangeNothingElse : Prop :=
  (∀ (i : Instr) (s t : State), isCfg i = false → exec i s = .next t →
    t.params = s.params ∧ t.cfg = s.cfg ∧ t.pending = s.pending.tail ∧
    ∃ r, t.responses = s.responses ++ [r] ∧
      ∀ s' : State, s'.params = s.params → s'.cfg = s.cfg → s'.pending.head? = s.pending.head? →
        exec i s' = .next { s' with pending := s'.pending.tail, responses := s'.responses ++ [r] }) ∧
  (∀ (w : Bool) (o : Order) (s t : State), exec (.cfg w o) s = .next t →
    t.params = s.params ∧ t.cfg = some { wswap := w, order := o } ∧ t.pending = s.pending.tail ∧
    t.responses = s.responses ++ [.ok .nothing])

/-- 10_state.md R32: an operation does not read a lane it does not name, and its result is on the lane it names and no other. -/
def Obligations.UnnamedLanesAreNotRead : Prop :=
  (∀ (i : Instr) (s : State) (c d : Command) (rest : List Command), sameOnLane (readsLane i) c d →
    exec i { s with pending := c :: rest } = exec i { s with pending := d :: rest }) ∧
  (∀ (i : Instr) (s t : State) (v : Result), exec i s = .next t → t.responses = s.responses ++ [.ok v] →
    v.lane = resultLane i)

/-- 10_state.md section 7: what the scratch buffer holds when a command begins has no effect on its response. -/
def Obligations.ScratchContentIsNeverRead : Prop :=
  ∀ (p : Params) (k : CodecConfig) (b b' : Scratch),
    (∀ n h, b2wResponse p k b n h = b2wResponse p k b' n h) ∧
    (∀ w, w2bResponse p k b w = w2bResponse p k b' w) ∧
    (∀ g sc n v, seriResponse p k b g sc n v = seriResponse p k b' g sc n v) ∧
    (∀ g sc w, desiResponse p k b g sc w = desiResponse p k b' g sc w) ∧
    (∀ n v, serfResponse p k b n v = serfResponse p k b' n v) ∧
    (∀ w, desfResponse p k b w = desfResponse p k b' w)

/-- 20_memory.md section 6 (marked by the spec as derived): two commands other than `CFG` commute: in either order each gets the
same response, and CFG stays as it was. -/
def Obligations.DataCommandsCommute : Prop :=
  ∀ (s t u t' u' : State) (c d : Command) (rest : List Command),
    c.hdr &&& 0xFFFC ≠ 0x1000 → d.hdr &&& 0xFFFC ≠ 0x1000 → s.pending = c :: d :: rest →
    step s = .next t → step t = .next u →
    step { s with pending := d :: c :: rest } = .next t' → step t' = .next u' →
    u.cfg = s.cfg ∧ u'.cfg = s.cfg ∧
    ∃ rc rd, u.responses = s.responses ++ [rc, rd] ∧ u'.responses = s.responses ++ [rd, rc]

/-! ## The unit functions -/

/-- 41_byte_order_mux.md R96 with R95: the whole sequence reversed, element by element, when the orders differ. -/
def Obligations.BotReversesWholeSequence : Prop :=
  ∀ (host order : Order) (b : List Byte),
    (order = host → bot host order b = b) ∧
    (order ≠ host → (bot host order b).length = b.length ∧
      ∀ j, j < b.length → (bot host order b)[j]? = b[b.length - 1 - j]?)

/-- The laws of 41_byte_order_mux.md section 1, which the spec marks as derived. -/
def Obligations.BotLaws : Prop :=
  ∀ (host order : Order) (b : List Byte),
    (bot host order b).length = b.length ∧ bot host order (bot host order b) = b ∧ bot host host b = b ∧
    bot host .big b = (bot host .little b).reverse

/-- 20_memory.md R41: each word most significant byte first. -/
def Obligations.PackLaysWordsBigEndian : Prop :=
  pack [] = [] ∧ pack [0x1122, 0x3344] = [0x11, 0x22, 0x33, 0x44] ∧
  ∀ w : List Word, (pack w).length = 2 * w.length ∧
    ∀ (i : Nat) (x : Word), w[i]? = some x →
      (pack w)[2 * i]? = some (x.extractLsb' 8 8) ∧ (pack w)[2 * i + 1]? = some (x.extractLsb' 0 8)

/-- 20_memory.md section 1 (`UNPACK`, whose pairing the spec marks as derived): on even lengths UNPACK pairs adjacent bytes, the
first the more significant, and is the inverse of PACK. -/
def Obligations.UnpackInvertsPack : Prop :=
  (∀ w : List Word, unpack (pack w) = w) ∧
  ∀ (n : Nat) (b : List Byte), b.length = 2 * n →
    pack (unpack b) = b ∧ (unpack b).length = n ∧
    ∀ (i : Nat) (hi lo : Byte), b[2 * i]? = some hi → b[2 * i + 1]? = some lo → (unpack b)[i]? = some (hi ++ lo)

/-- 42_word_swapper.md R106 with R105: the swap is a full reversal of the words. -/
def Obligations.WswReversesWholeWords : Prop :=
  ∀ w : List Word, wsw false w = w ∧ (wsw true w).length = w.length ∧
    ∀ i, i < w.length → (wsw true w)[i]? = w[w.length - 1 - i]?

/-- 42_word_swapper.md R107: the swap on the byte form moves two-byte groups and keeps the order within a group. -/
def Obligations.WswbReversesByteGroups : Prop :=
  ∀ (n : Nat) (b : List Byte), b.length = 2 * n →
    wswb false b = b ∧ (wswb true b).length = 2 * n ∧
    ∀ i k, i < n → k < 2 → (wswb true b)[2 * i + k]? = b[2 * (n - 1 - i) + k]?

/-- The laws of 42_word_swapper.md section 1, which the spec marks as derived: length, involution, agreement of the two forms, nothing
to swap in at most one word, and commuting with the byte reversal, both compositions exchanging the two bytes of every group. -/
def Obligations.WordSwapLaws : Prop :=
  (∀ (sw : Bool) (w : List Word), (wsw sw w).length = w.length ∧ wsw sw (wsw sw w) = w ∧ (w.length ≤ 1 → wsw sw w = w)) ∧
  ∀ (n : Nat) (b : List Byte), b.length = 2 * n →
    (∀ sw, wswb sw b = pack (wsw sw (unpack b))) ∧
    (wswb true b).reverse = wswb true b.reverse ∧
    ∀ i k, i < n → k < 2 → (wswb true b).reverse[2 * i + k]? = b[2 * i + 1 - k]?

/-- 42_word_swapper.md section 2 (the alternative order of steps, which the spec marks as derived; 90_conflicts.md C1): whether the
words are swapped before or after the byte-order transform, registers give the same bytes and bytes the same registers. -/
def Obligations.CompositeFormsAgree : Prop :=
  ∀ (host : Order) (k : CodecConfig),
    (∀ w : List Word, w2b host k w = wswb k.wswap (bot host k.order (pack w))) ∧
    ∀ (n : Nat) (h : List Byte), h.length = 2 * n →
      b2w host k h = unpack (bot host k.order (wswb k.wswap h))

/-- The inverse laws of 42_word_swapper.md section 2, which the spec marks as derived. -/
def Obligations.CompositeTransformsInvert : Prop :=
  ∀ (host : Order) (k : CodecConfig),
    (∀ w : List Word, b2w host k (w2b host k w) = w ∧ (w2b host k w).length = 2 * w.length) ∧
    ∀ (n : Nat) (h : List Byte), h.length = 2 * n → w2b host k (b2w host k h) = h ∧ (b2w host k h).length = n

/-- 43_int_serializers.md R126, bit by bit, at the four widths. What the words little and big mean for bytes is stated by the rule,
which marks it as the spec's general knowledge (log entry 15). -/
def Obligations.I2bLaysBytesInHostOrder : Prop :=
  ∀ w ∈ [16, 32, 64, 128], ∀ x : BitVec w,
    (∀ host, (i2b host w x).length = w / 8) ∧
    ∀ j < w / 8,
      (∃ y, (i2b .little w x)[j]? = some y ∧ ∀ b < 8, y.getLsbD b = x.getLsbD (8 * j + b)) ∧
      (∃ y, (i2b .big w x)[j]? = some y ∧ ∀ b < 8, y.getLsbD b = x.getLsbD (w - 8 - 8 * j + b))

/-- 43_int_serializers.md R127, bit by bit, at the four widths. -/
def Obligations.B2iReadsBytesInHostOrder : Prop :=
  ∀ w ∈ [16, 32, 64, 128], ∀ h : List Byte, h.length = w / 8 →
    ∀ j < w / 8, ∀ y, h[j]? = some y → ∀ b < 8,
      (b2i .little w h).getLsbD (8 * j + b) = y.getLsbD b ∧
      (b2i .big w h).getLsbD (w - 8 - 8 * j + b) = y.getLsbD b

/-- 43_int_serializers.md section 2 (marked by the spec as derived): the serializers are bijections. -/
def Obligations.IntegerBytesRoundTrip : Prop :=
  ∀ (host : Order), ∀ w ∈ [16, 32, 64, 128],
    (∀ x : BitVec w, b2i host w (i2b host w x) = x) ∧
    ∀ h : List Byte, h.length = w / 8 → i2b host w (b2i host w h) = h

/-- 43_int_serializers.md section 3 (marked by the spec as derived): FITS says the integer is in the range of the width, and then
truncating and extending back gives VAL again. -/
def Obligations.FitsMeansRepresentable : Prop :=
  ∀ (v : Val), ∀ w ∈ [16, 32, 64, 128],
    (fits false w v = true ↔ v.toNat < 2 ^ w) ∧
    (fits true w v = true ↔ -(2 : Int) ^ (w - 1) ≤ v.toInt ∧ v.toInt < (2 : Int) ^ (w - 1)) ∧
    ∀ g, fits g w v = true → extend g w (v.setWidth w) = v

/-! ## Layouts, round trips, independence -/

/-- 20_memory.md section 2 (the table of R46, marked by the spec as derived): the registers `SERI` produces, for both values of
`HOST_ORDER`. -/
def Obligations.SeriRegisterLayout : Prop :=
  ∀ (s : State) (c : Command) (rest : List Command) (k : CodecConfig) (signed scaled : Bool) (n : Nat),
    s.pending = c :: rest → s.cfg = some k → n ∈ intLengths scaled → fits signed (16 * n) c.val = true →
    ∃ r, exec (.seri signed scaled n) s = .next (s.complete (.words r)) ∧ r.length = n ∧
      ∀ i < n, r[i]? = some (layoutWord k.wswap (decide (k.order = .little)) (2 * n) (valueByte (16 * n) c.val) i)

/-- The same table for `SERF`. -/
def Obligations.SerfRegisterLayout : Prop :=
  ∀ (s : State) (c : Command) (rest : List Command) (k : CodecConfig) (n : Nat),
    s.pending = c :: rest → s.cfg = some k → n ∈ floatLengths → c.val.toNat < 2 ^ (16 * n) →
    ∃ r, exec (.serf n) s = .next (s.complete (.words r)) ∧ r.length = n ∧
      ∀ i < n, r[i]? = some (layoutWord k.wswap (decide (k.order = .little)) (2 * n) (valueByte (16 * n) c.val) i)

/-- 20_memory.md section 2 (the table of R47, marked by the spec as derived): the registers `B2W` produces from the caller's bytes. -/
def Obligations.B2wRegisterLayout : Prop :=
  ∀ (s : State) (c : Command) (rest : List Command) (k : CodecConfig) (n : Nat),
    s.pending = c :: rest → s.cfg = some k → 1 ≤ n → n ≤ s.params.nmax → c.bseq.length = 2 * n →
    ∃ r, exec (.b2w n) s = .next (s.complete (.words r)) ∧ r.length = n ∧
      ∀ i < n, r[i]? = some (layoutWord k.wswap (decide (k.order ≠ s.params.hostOrder)) (2 * n)
        (fun j => c.bseq.getD j 0) i)

/-- 43_int_serializers.md section 5 (marked by the spec as derived): `DESI` on the registers of a successful `SERI`, under the same CFG
and with the same S and K, gives the integer back. -/
def Obligations.DesiUndoesSeri : Prop :=
  ∀ (s t s' : State) (c c' : Command) (rest rest' : List Command) (signed scaled : Bool) (n : Nat) (r : List Word),
    s.pending = c :: rest → exec (.seri signed scaled n) s = .next t → t.responses = s.responses ++ [.ok (.words r)] →
    s'.params = s.params → s'.cfg = s.cfg → s'.pending = c' :: rest' → c'.wseq = r →
    exec (.desi signed scaled) s' = .next (s'.complete (.value c.val))

/-- 43_int_serializers.md section 5 (marked by the spec as derived): the other way round. -/
def Obligations.SeriUndoesDesi : Prop :=
  ∀ (s t s' : State) (c c' : Command) (rest rest' : List Command) (signed scaled : Bool) (v : Val),
    s.pending = c :: rest → exec (.desi signed scaled) s = .next t → t.responses = s.responses ++ [.ok (.value v)] →
    s'.params = s.params → s'.cfg = s.cfg → s'.pending = c' :: rest' → c'.val = v →
    exec (.seri signed scaled c.wseq.length) s' = .next (s'.complete (.words c.wseq))

/-- 44_float_reinterpret.md section 3 (marked by the spec as derived): `DESF` gives back the pattern `SERF` wrote, for every pattern,
NaNs included, and `SERF` the registers `DESF` read. -/
def Obligations.FloatPatternsRoundTrip : Prop :=
  ∀ (s t s' : State) (c c' : Command) (rest rest' : List Command),
    s.pending = c :: rest → s'.params = s.params → s'.cfg = s.cfg → s'.pending = c' :: rest' →
    (∀ n, exec (.serf n) s = .next t → t.responses = s.responses ++ [.ok (.words c'.wseq)] →
      exec .desf s' = .next (s'.complete (.value c.val))) ∧
    (exec .desf s = .next t → t.responses = s.responses ++ [.ok (.value c'.val)] →
      exec (.serf c.wseq.length) s' = .next (s'.complete (.words c.wseq)))

/-- 42_word_swapper.md R115 and 41_byte_order_mux.md R100 at the level of commands (both marked by the spec as derived): `W2B` undoes
`B2W`, `B2W` undoes `W2B` on presentable registers, and `BOT` and `WSW` undo themselves. -/
def Obligations.RawCommandsUndoEachOther : Prop :=
  ∀ (s t s' : State) (c c' : Command) (rest rest' : List Command),
    s.pending = c :: rest → s'.params = s.params → s'.cfg = s.cfg → s'.pending = c' :: rest' →
    (∀ n, exec (.b2w n) s = .next t → t.responses = s.responses ++ [.ok (.words c'.wseq)] →
      exec .w2b s' = .next (s'.complete (.bytes c.bseq))) ∧
    (exec .w2b s = .next t → t.responses = s.responses ++ [.ok (.bytes c'.bseq)] → c.wseq.length ≤ s.params.nmax →
      exec (.b2w c.wseq.length) s' = .next (s'.complete (.words c.wseq))) ∧
    (exec .bot s = .next t → t.responses = s.responses ++ [.ok (.bytes c'.bseq)] →
      exec .bot s' = .next (s'.complete (.bytes c.bseq))) ∧
    (exec .wsw s = .next t → t.responses = s.responses ++ [.ok (.words c'.wseq)] →
      exec .wsw s' = .next (s'.complete (.words c.wseq)))

/-- 43_int_serializers.md section 5 (marked by the spec as derived): the responses of `SERI`, `DESI`, `SERF` and `DESF` are the same for
both values of `HOST_ORDER`. -/
def Obligations.NumericOperationsIgnoreHostOrder : Prop :=
  ∀ (s t : State) (o : Order),
    (∀ g k n, exec (.seri g k n) s = .next t → exec (.seri g k n) (s.withHostOrder o) = .next (t.withHostOrder o)) ∧
    (∀ g k, exec (.desi g k) s = .next t → exec (.desi g k) (s.withHostOrder o) = .next (t.withHostOrder o)) ∧
    (∀ n, exec (.serf n) s = .next t → exec (.serf n) (s.withHostOrder o) = .next (t.withHostOrder o)) ∧
    (exec .desf s = .next t → exec .desf (s.withHostOrder o) = .next (t.withHostOrder o))

/-- 43_int_serializers.md section 4 (the K flag): K refuses 8 registers and changes nothing else. -/
def Obligations.ScaledFlagOnlyRefusesEightRegisters : Prop :=
  ∀ (s : State) (c : Command) (rest : List Command) (signed : Bool), s.pending = c :: rest →
    (∀ n, n ≠ 8 → exec (.seri signed true n) s = exec (.seri signed false n) s) ∧
    (c.wseq.length ≠ 8 → exec (.desi signed true) s = exec (.desi signed false) s) ∧
    (s.cfg.isSome = true → exec (.seri signed true 8) s = .next (s.raise .unsupportedLength) ∧
      (c.wseq.length = 8 → exec (.desi signed true) s = .next (s.raise .unsupportedLength)))

/-- 43_int_serializers.md section 5 (what S changes, marked by the spec as derived): `SERI` writes the same registers for a value that
fits under both readings, and the two results of `DESI` agree on the low bits and differ only where the pattern's top bit is 1. -/
def Obligations.SignedFlagChangesOnlyTheReading : Prop :=
  ∀ (s : State) (c : Command) (rest : List Command) (scaled : Bool), s.pending = c :: rest →
    (∀ n, fits true (16 * n) c.val = true → fits false (16 * n) c.val = true →
      exec (.seri true scaled n) s = exec (.seri false scaled n) s) ∧
    (s.cfg.isSome = true → c.wseq.length ∈ intLengths scaled →
      ∃ v u : Val, exec (.desi true scaled) s = .next (s.complete (.value v)) ∧
        exec (.desi false scaled) s = .next (s.complete (.value u)) ∧
        (∀ b < 16 * c.wseq.length, v.getLsbD b = u.getLsbD b) ∧
        (u.getLsbD (16 * c.wseq.length - 1) = false → v = u))

/-- 44_float_reinterpret.md section 3 (marked by the spec as derived): on the lengths and operands both accept, the float operations
are the unsigned integer ones. -/
def Obligations.FloatOperationsAreUnsignedIntegerOnes : Prop :=
  ∀ (s : State) (c : Command) (rest : List Command), s.pending = c :: rest →
    (∀ n ∈ [2, 4], c.val.toNat < 2 ^ (16 * n) → exec (.serf n) s = exec (.seri false false n) s) ∧
    (c.wseq.length ∈ [2, 4] → exec .desf s = exec (.desi false false) s)
end

