-- ==== Sys2Proof/Laws/Decode.lean ====
section
/-! SUPPORT. What decoding does, as one chain of conditions. -/

namespace Sys2Proof

@[simp] theorem decodeRows_nil (h : Header) : decodeRows [] h = none := rfl

@[simp] theorem decodeRows_cons (r : Row) (rs : List Row) (h : Header) :
    decodeRows (r :: rs) h = if r.spells h then some (r.build h) else decodeRows rs h := rfl

/-- Decoding tries the nine rows of 30_encoding.md R66 in turn. -/
theorem decode_eq (h : Header) : decode h =
    if h &&& 0xFFFC = 0x1000 then some (.cfg (h.getLsbD 1) (Order.ofBit (h.getLsbD 0)))
    else if h &&& 0xFFFF = 0x2000 then some .bot
    else if h &&& 0xFFFF = 0x3000 then some .wsw
    else if h &&& 0xFF00 = 0x4000 then some (.b2w (Header.len h))
    else if h &&& 0xFFFF = 0x5000 then some .w2b
    else if h &&& 0xF300 = 0x6000 then some (.seri (Header.signed h) (Header.scaled h) (Header.len h))
    else if h &&& 0xF3FF = 0x7000 then some (.desi (Header.signed h) (Header.scaled h))
    else if h &&& 0xFF00 = 0x8000 then some (.serf (Header.len h))
    else if h &&& 0xFFFF = 0x9000 then some .desf
    else none := by
  simp only [decode, opcodeTable, decodeRows_cons, decodeRows_nil, Row.spells, beq_iff_eq]

/-- Every mask of R66 covers HDR[15:12], so a header that spells a row has the row's opcode. -/
theorem opcode_of_mask {h mask spelling : Header} (hm : h &&& mask = spelling) (ho : mask &&& 0xF000 = 0xF000) :
    h &&& 0xF000 = spelling &&& 0xF000 := by
  rw [← hm, BitVec.and_assoc, ho]

end Sys2Proof
end

