-- ==== Sys2Proof/Laws/Operands.lean ====
section
/-! SUPPORT. The small lemmas of the unit functions: their equations on the two values of a selector, their lengths, and how they
act on a pair of bytes or a word at the front. -/

namespace Sys2Proof.Machine

@[simp] theorem pack_nil : pack [] = [] := rfl
@[simp] theorem pack_cons (w : Word) (ws : List Word) : pack (w :: ws) = wordHigh w :: wordLow w :: pack ws := rfl
@[simp] theorem unpack_nil : unpack [] = [] := rfl
@[simp] theorem unpack_pair (hi lo : Byte) (b : List Byte) : unpack (hi :: lo :: b) = wordOf hi lo :: unpack b := rfl

@[simp] theorem reverseGroups_nil : reverseGroups [] = [] := rfl
@[simp] theorem reverseGroups_pair (b0 b1 : Byte) (b : List Byte) :
    reverseGroups (b0 :: b1 :: b) = reverseGroups b ++ [b0, b1] := rfl

@[simp] theorem pack_length (w : List Word) : (pack w).length = 2 * w.length := by
  induction w with
  | nil => rfl
  | cons x xs ih => simp only [pack_cons, List.length_cons, ih]; omega

theorem pack_append (v w : List Word) : pack (v ++ w) = pack v ++ pack w := by
  induction v with
  | nil => rfl
  | cons x xs ih => simp only [List.cons_append, pack_cons, ih]

@[simp] theorem bot_same (o : Order) (b : List Byte) : bot o o b = b := by simp [bot]

theorem bot_differ {host order : Order} (h : order ≠ host) (b : List Byte) : bot host order b = b.reverse := by simp [bot, h]

@[simp] theorem bot_length (host order : Order) (b : List Byte) : (bot host order b).length = b.length := by
  unfold bot
  split
  · exact List.length_reverse
  · rfl

@[simp] theorem wsw_false (w : List Word) : wsw false w = w := rfl
@[simp] theorem wsw_true (w : List Word) : wsw true w = w.reverse := rfl

@[simp] theorem wsw_length (sw : Bool) (w : List Word) : (wsw sw w).length = w.length := by cases sw <;> simp

@[simp] theorem wswb_false (b : List Byte) : wswb false b = b := rfl
@[simp] theorem wswb_true (b : List Byte) : wswb true b = reverseGroups b := rfl

@[simp] theorem w2b_length (host : Order) (k : CodecConfig) (w : List Word) : (w2b host k w).length = 2 * w.length := by
  simp [w2b]

@[simp] theorem i2b_length (host : Order) (w : Nat) (x : BitVec w) : (i2b host w x).length = w / 8 := by
  cases host <;> simp [i2b]

theorem unpack_length_even (n : Nat) : ∀ b : List Byte, b.length = 2 * n → (unpack b).length = n := by
  induction n with
  | zero => intro b h; simp [List.length_eq_zero_iff.mp h]
  | succ n ih =>
    intro b h
    match b, h with
    | hi :: lo :: rest, h =>
      have hr : rest.length = 2 * n := by simp only [List.length_cons] at h; omega
      simp only [unpack_pair, List.length_cons, ih rest hr]

theorem b2w_length_even (host : Order) (k : CodecConfig) (n : Nat) (h : List Byte) (hn : h.length = 2 * n) :
    (b2w host k h).length = n := by
  simp only [b2w, wsw_length]
  exact unpack_length_even n _ (by simpa using hn)

end Sys2Proof.Machine
end

