-- ==== Sys2Proof/Laws/State.lean ====
section
/-! SUPPORT. One lemma per field per update of the state, so that no proof unfolds a record update. -/

namespace Sys2Proof.Machine

variable (s : State) (r : Result) (e : ErrorKind) (k : CodecConfig) (c : Command)

@[simp] theorem State.complete_params : (s.complete r).params = s.params := rfl
@[simp] theorem State.complete_cfg : (s.complete r).cfg = s.cfg := rfl
@[simp] theorem State.complete_pending : (s.complete r).pending = s.pending.tail := rfl
@[simp] theorem State.complete_responses : (s.complete r).responses = s.responses ++ [.ok r] := rfl

@[simp] theorem State.raise_params : (s.raise e).params = s.params := rfl
@[simp] theorem State.raise_cfg : (s.raise e).cfg = s.cfg := rfl
@[simp] theorem State.raise_pending : (s.raise e).pending = s.pending.tail := rfl
@[simp] theorem State.raise_responses : (s.raise e).responses = s.responses ++ [.error e] := rfl

@[simp] theorem State.answer_ok : s.answer (.ok r) = s.complete r := rfl
@[simp] theorem State.answer_error : s.answer (.error e) = s.raise e := rfl

@[simp] theorem State.answer_params (a : Response) : (s.answer a).params = s.params := by cases a <;> rfl
@[simp] theorem State.answer_cfg (a : Response) : (s.answer a).cfg = s.cfg := by cases a <;> rfl
@[simp] theorem State.answer_pending (a : Response) : (s.answer a).pending = s.pending.tail := by cases a <;> rfl
@[simp] theorem State.answer_responses (a : Response) : (s.answer a).responses = s.responses ++ [a] := by cases a <;> rfl

@[simp] theorem State.configure_params : (s.configure k).params = s.params := rfl
@[simp] theorem State.configure_cfg : (s.configure k).cfg = some k := rfl
@[simp] theorem State.configure_pending : (s.configure k).pending = s.pending := rfl
@[simp] theorem State.configure_responses : (s.configure k).responses = s.responses := rfl

@[simp] theorem State.present_params : (s.present c).params = s.params := rfl
@[simp] theorem State.present_cfg : (s.present c).cfg = s.cfg := rfl
@[simp] theorem State.present_pending : (s.present c).pending = c :: s.pending := rfl
@[simp] theorem State.present_responses : (s.present c).responses = s.responses := rfl

@[simp] theorem State.reset_params : State.reset.params = Config.params := rfl
@[simp] theorem State.reset_cfg : State.reset.cfg = none := rfl
@[simp] theorem State.reset_pending : State.reset.pending = [] := rfl
@[simp] theorem State.reset_responses : State.reset.responses = [] := rfl

end Sys2Proof.Machine
end

