-- ==== Sys2Proof/Laws/Ops.lean ====
section
/-! SUPPORT. One lemma per shared operation that says once everything it can do. -/

namespace Sys2Proof.Machine

/-- What the scratch buffer gives back at offset 0 is what was stored there, whatever it held before (10_state.md R33). -/
theorem memRead_memWrite (buf : Scratch) (v : List Byte) : memRead (memWrite buf 0 v) 0 v.length = v := by
  simp [memRead, memWrite]

theorem memRead_memWrite_of_length {buf : Scratch} {v : List Byte} {n : Nat} (h : v.length = n) :
    memRead (memWrite buf 0 v) 0 n = v := by
  subst h; exact memRead_memWrite buf v

/-- The last stage of a serialise operation is B2W of the whole buffer (42_word_swapper.md R113). -/
theorem bufferToRegisters_eq (p : Params) (k : CodecConfig) (buf : Scratch) {n : Nat} {h : List Byte} (hn : h.length = 2 * n) :
    bufferToRegisters p k buf n h = b2w p.hostOrder k h := by
  simp only [bufferToRegisters, memRead_memWrite_of_length hn]

/-- The first stage of a deserialise operation is W2B of the registers (R111). -/
theorem registersToBuffer_eq (p : Params) (k : CodecConfig) (buf : Scratch) (w : List Word) :
    registersToBuffer p k buf w = w2b p.hostOrder k w := by
  simp only [registersToBuffer]
  exact memRead_memWrite_of_length (w2b_length _ _ _)

/-- A meaning runs exactly when a command is pending. -/
theorem withCommand_cons {s : State} {c : Command} {rest : List Command} (h : s.pending = c :: rest) (f : Command → State) :
    withCommand s f = .next (f c) := by
  simp only [withCommand, h]

theorem withCommand_next {s t : State} {f : Command → State} (h : withCommand s f = .next t) :
    ∃ c rest, s.pending = c :: rest ∧ t = f c := by
  unfold withCommand at h
  split at h
  · cases h
  · next c rest hp => cases h; exact ⟨c, rest, hp, rfl⟩

/-- A data command answers, and what it answers is `dataResponse`. -/
theorem dataCommand_cons {s : State} {c : Command} {rest : List Command} (h : s.pending = c :: rest)
    (f : CodecConfig → Scratch → Command → Response) :
    dataCommand s f = .next (s.answer (dataResponse s f c)) :=
  withCommand_cons h _

theorem dataCommand_next {s t : State} {f : CodecConfig → Scratch → Command → Response} (h : dataCommand s f = .next t) :
    ∃ c rest, s.pending = c :: rest ∧ t = s.answer (dataResponse s f c) :=
  withCommand_next h

theorem dataResponse_unconfigured {s : State} (h : s.cfg = none) (f : CodecConfig → Scratch → Command → Response)
    (c : Command) : dataResponse s f c = .error .notConfigured := by
  simp only [dataResponse, h]

theorem dataResponse_configured {s : State} {k : CodecConfig} (h : s.cfg = some k)
    (f : CodecConfig → Scratch → Command → Response) (c : Command) :
    dataResponse s f c = f k (Scratch.fresh s.params) c := by
  simp only [dataResponse, h]

/-- The three cases of the next command. -/
theorem presented_nil {s : State} (h : s.pending = []) : s.presented = .idle := by simp only [State.presented, h]

theorem presented_command {s : State} {c : Command} {rest : List Command} (h : s.pending = c :: rest)
    (hc : c.presentable s.params = true) : s.presented = .command c := by
  simp only [State.presented, h, hc, if_true]

theorem presented_tooLong {s : State} {c : Command} {rest : List Command} (h : s.pending = c :: rest)
    (hc : c.presentable s.params = false) : s.presented = .tooLong := by
  simp [State.presented, h, hc]

end Sys2Proof.Machine
end

