-- ==== Sys2Proof/Laws/PerInstr.lean ====
section
/-! SUPPORT. Per instruction: the encoder's header spells a row of the opcode table (30_encoding.md R66), so no encoded
instruction is illegal (R68). -/

namespace Sys2Proof.Laws.EncodedHeaderIsLegal

/-- The header of a well-formed instruction matches a row of R66. -/
def Statement (i : Instr) : Prop :=
  i.wellFormed = true → ∃ r ∈ opcodeTable, r.spells (encode i) = true

/-- A header of format L with S = K = 0, for the opcodes of `B2W` and `SERF`. -/
theorem formatL_plain_spells (n : Nat) :
    formatL 4 false false n &&& 0xFF00 = 0x4000 ∧ formatL 8 false false n &&& 0xFF00 = 0x8000 := by
  unfold formatL
  generalize BitVec.ofNat 8 n = x
  revert x
  decide

/-- A header of format L with the opcode of `SERI`. -/
theorem formatL_seri_spells (g k : Bool) (n : Nat) : formatL 6 g k n &&& 0xF300 = 0x6000 := by
  unfold formatL
  generalize BitVec.ofNat 8 n = x
  revert g k x
  decide

theorem cfg (w : Bool) (o : Order) : Statement (.cfg w o) := fun _ => by
  cases w <;> cases o <;> decide

theorem bot : Statement .bot := fun _ => by decide

theorem wsw : Statement .wsw := fun _ => by decide

theorem b2w (n : Nat) : Statement (.b2w n) := fun _ =>
  ⟨⟨0xFF00, 0x4000, fun h => .b2w (Header.len h)⟩, by simp [opcodeTable],
    by simpa [Row.spells, encode] using (formatL_plain_spells n).1⟩

theorem w2b : Statement .w2b := fun _ => by decide

theorem seri (g k : Bool) (n : Nat) : Statement (.seri g k n) := fun _ =>
  ⟨⟨0xF300, 0x6000, fun h => .seri (Header.signed h) (Header.scaled h) (Header.len h)⟩, by simp [opcodeTable],
    by simpa [Row.spells, encode] using formatL_seri_spells g k n⟩

theorem desi (g k : Bool) : Statement (.desi g k) := fun _ => by
  cases g <;> cases k <;> decide

theorem serf (n : Nat) : Statement (.serf n) := fun _ =>
  ⟨⟨0xFF00, 0x8000, fun h => .serf (Header.len h)⟩, by simp [opcodeTable],
    by simpa [Row.spells, encode] using (formatL_plain_spells n).2⟩

theorem desf : Statement .desf := fun _ => by decide

end Sys2Proof.Laws.EncodedHeaderIsLegal
end

