-- ==== Sys2Proof/Tests/Slice0.lean ====
section
/-! SUPPORT. Tests. Every expected value is from spec/95_test_vectors.md or from the rule a test names; the second half shows, for each
statement with hypotheses, a state and operands that meet them. -/

namespace Sys2Proof.Tests

open Sys2Proof.Machine

/-- An instance with `NMAX = 16` (95_test_vectors.md section 4) and one presented command. -/
def present (host : Order) (cfg : Option CodecConfig) (h : Header) (v : Val) (b : List Byte) (w : List Word) : State :=
  { params := { hostOrder := host, nmaxOver9 := 7 }, cfg := cfg, pending := [{ hdr := h, val := v, bseq := b, wseq := w }],
    responses := [] }

/-- The response of one step. -/
def answerOf (o : Host.Outcome State Fault Refusal) : Option Response :=
  match o with
  | .next t => t.responses.getLast?
  | .fault _ => none
  | .refused _ => none

/-- CFG after one step. -/
def cfgOf (o : Host.Outcome State Fault Refusal) : Option CodecConfig :=
  match o with
  | .next t => t.cfg
  | .fault _ => none
  | .refused _ => none

/-! ## Well-formedness (LEN is 0 to 255) -/

theorem test_wellFormed_b2w : (Instr.b2w 256).wellFormed = false ∧ (Instr.b2w 255).wellFormed = true := by decide
theorem test_wellFormed_seri : (Instr.seri true false 256).wellFormed = false ∧ (Instr.seri true false 255).wellFormed = true := by decide
theorem test_wellFormed_serf : (Instr.serf 256).wellFormed = false ∧ (Instr.serf 255).wellFormed = true := by decide

/-! ## Decoding: words written out from the formats of 30_encoding.md R61 and R62 -/

theorem test_decode_cfg : decode 0b0001000000000010#16 = some (.cfg true .big) ∧ decode 0b0001000000000001#16 = some (.cfg false .little) := by decide
theorem test_decode_bot : decode 0b0010000000000000#16 = some .bot := by decide
theorem test_decode_wsw : decode 0b0011000000000000#16 = some .wsw := by decide
theorem test_decode_b2w : decode 0b0100000000001001#16 = some (.b2w 9) := by decide
theorem test_decode_w2b : decode 0b0101000000000000#16 = some .w2b := by decide
theorem test_decode_seri : decode 0b0110100000000010#16 = some (.seri true false 2) ∧ decode 0b0110010000001000#16 = some (.seri false true 8) := by decide
theorem test_decode_desi : decode 0b0111010000000000#16 = some (.desi false true) ∧ decode 0b0111100000000000#16 = some (.desi true false) := by decide
theorem test_decode_serf : decode 0b1000000000000100#16 = some (.serf 4) := by decide
theorem test_decode_desf : decode 0b1001000000000000#16 = some .desf := by decide

/-- The illegal headers of 95_test_vectors.md section 2.1. -/
theorem test_decode_illegal :
    [0x1004, 0x1800, 0x0000, 0xFFFF, 0xA000, 0x2001, 0x3800, 0x4802, 0x5001, 0x6102, 0x6202, 0x7001, 0x8802, 0x8402, 0x9800].all
      (fun h => (decode (BitVec.ofNat 16 h)).isNone) = true := by decide

/-- 30_encoding.md R74: an assembled header and its notation. -/
theorem test_text_seri : (Instr.seri true true 2).text = "SERI.s.k len=2" ∧ encode (.seri true true 2) = 0x6C02 := by decide
theorem test_text_cfg : (Instr.cfg true .little).text = "CFG wswap=1, order=little" ∧ encode (.cfg true .little) = 0x1003 := by decide

/-- 30_encoding.md R76: the scaled integer encoding is `SERI` and `DESI` with K = 1. -/
theorem test_serialize_scaled :
    serializeInstr .intAndScaleFactor 2 true = .seri true true 2 ∧ deserializeInstr .rawBytes true = .w2b := by decide

theorem test_tableWord : decodeTableWord 16 0x6802 = some (.seri true false 2) ∧ decodeTableWord 16 0x0000 = none := by decide

/-! ## One step per test -/

/-- R90, section 2.1: `0x1003` from reset configures (1, little); CFG's bits are CFGV, WSWAP, ORDER. -/
theorem test_cfg : cfgOf (step (present .big none 0x1003 0 [] [])) = some { wswap := true, order := .little } ∧
    cfgBits { wswap := true, order := .big } = 0b110 := by decide
/-- Section 2.1: a reserved bit answers `UnsupportedEncoding` and CFG is unchanged. -/
theorem test_cfg_reserved : answerOf (step (present .big (some ⟨false, .big⟩) 0x1004 0 [] [])) = some (.error .unsupportedEncoding) ∧
    cfgOf (step (present .big (some ⟨false, .big⟩) 0x1004 0 [] [])) = some ⟨false, .big⟩ := by decide

/-- R99: `HOST_ORDER = little`, ORDER = big. -/
theorem test_bot_odd : answerOf (step (present .little (some ⟨true, .big⟩) 0x2000 0 [1, 2, 3] [])) = some (.ok (.bytes [3, 2, 1])) := by decide
theorem test_bot_unconfigured : answerOf (step (present .little none 0x2000 0 [1] [])) = some (.error .notConfigured) := by decide

/-- R109: a reversal, no rotation and no pairwise swap. -/
theorem test_wsw : answerOf (step (present .big (some ⟨true, .little⟩) 0x3000 0 [] [0xA, 0xB, 0xC])) =
    some (.ok (.words [0xC, 0xB, 0xA])) := by decide
theorem test_wsw_empty : answerOf (step (present .big (some ⟨true, .big⟩) 0x3000 0 [] [])) = some (.ok (.words [])) := by decide

/-- Program P3, step 2, on the instance with `HOST_ORDER = big`. -/
theorem test_b2w : answerOf (step (present .big (some ⟨true, .little⟩) 0x4002 0 [0x0A, 0, 0, 0xE4] [])) =
    some (.ok (.words [0x000A, 0xE400])) := by decide
/-- Section 2.3: LEN = 17 exceeds `NMAX = 16`, and the length is checked before the mismatch. -/
theorem test_b2w_length : answerOf (step (present .big (some ⟨true, .little⟩) 0x4011 0 [1] [])) = some (.error .unsupportedLength) ∧
    answerOf (step (present .big (some ⟨true, .little⟩) 0x4002 0 [1, 2, 3] [])) = some (.error .lengthMismatch) := by decide

/-- R118's example. -/
theorem test_w2b : answerOf (step (present .little (some ⟨true, .big⟩) 0x5000 0 [] [0x1122, 0x3344, 0x5566])) =
    some (.ok (.bytes [0x22, 0x11, 0x44, 0x33, 0x66, 0x55])) := by decide
theorem test_w2b_empty : answerOf (step (present .little (some ⟨true, .big⟩) 0x5000 0 [] [])) = some (.error .unsupportedLength) := by decide

/-- R45: the four arrangements of `0x11223344`. -/
theorem test_seri_arrangements :
    answerOf (step (present .little (some ⟨false, .big⟩) 0x6002 0x11223344 [] [])) = some (.ok (.words [0x1122, 0x3344])) ∧
    answerOf (step (present .little (some ⟨false, .little⟩) 0x6002 0x11223344 [] [])) = some (.ok (.words [0x4433, 0x2211])) ∧
    answerOf (step (present .big (some ⟨true, .big⟩) 0x6002 0x11223344 [] [])) = some (.ok (.words [0x3344, 0x1122])) ∧
    answerOf (step (present .big (some ⟨true, .little⟩) 0x6002 0x11223344 [] [])) = some (.ok (.words [0x2211, 0x4433])) := by decide
/-- R139: 65536 does not fit one unsigned register; -32768 fits a signed one; 32768 does not. -/
theorem test_seri_range :
    answerOf (step (present .big (some ⟨false, .big⟩) 0x6001 0x10000 [] [])) = some (.error .rangeError) ∧
    answerOf (step (present .big (some ⟨false, .big⟩) 0x6801 (-32768) [] [])) = some (.ok (.words [0x8000])) ∧
    answerOf (step (present .big (some ⟨false, .big⟩) 0x6801 32768 [] [])) = some (.error .rangeError) := by decide

/-- R132's example. -/
theorem test_desi_sign : answerOf (step (present .little (some ⟨false, .big⟩) 0x7800 0 [] [0xFFFF, 0xFFFE])) = some (.ok (.value (-2))) ∧
    answerOf (step (present .little (some ⟨false, .big⟩) 0x7000 0 [] [0xFFFF, 0xFFFE])) = some (.ok (.value 4294967294)) := by decide
/-- R193's example: registers written under (0, big) and read under (1, big). -/
theorem test_desi_reconfigured : answerOf (step (present .big (some ⟨true, .big⟩) 0x7000 0 [] [0x1122, 0x3344])) =
    some (.ok (.value 0x33441122)) := by decide

/-- Section 2.6: a signaling NaN is written unchanged, under (1, little). -/
theorem test_serf_nan : answerOf (step (present .big (some ⟨true, .little⟩) 0x8002 0x7FA00001 [] [])) =
    some (.ok (.words [0xA07F, 0x0100])) ∧ singleClass 0x7FA00001 = .signalingNaN := by decide
/-- Section 2.6: 2^32 is no single; one register is no float. -/
theorem test_serf_errors : answerOf (step (present .big (some ⟨true, .little⟩) 0x8002 0x100000000 [] [])) = some (.error .unsupportedType) ∧
    answerOf (step (present .big (some ⟨true, .little⟩) 0x8001 0 [] [])) = some (.error .unsupportedLength) := by decide

/-- R155's example: the double nearest pi. -/
theorem test_desf : answerOf (step (present .little (some ⟨false, .big⟩) 0x9000 0 [] [0x4009, 0x21FB, 0x5444, 0x2D18])) =
    some (.ok (.value 0x400921FB54442D18)) ∧ doubleClass 0x400921FB54442D18 = .normal := by decide
theorem test_desf_length : answerOf (step (present .little (some ⟨false, .big⟩) 0x9000 0 [] [1, 2, 3])) = some (.error .unsupportedLength) := by decide

/-! ## Witnesses: states and operands that meet the hypotheses of the statements -/

/-- An instance configured as (1, little), `HOST_ORDER = big`, with two commands pending after the given one. -/
def busy (h : Header) (v : Val) (b : List Byte) (w : List Word) : State :=
  { params := { hostOrder := .big, nmaxOver9 := 0 }, cfg := some ⟨true, .little⟩
    pending := [⟨h, v, b, w⟩, ⟨0x3000, 0, [], [1, 2]⟩, ⟨0x2000, 0, [1, 2], []⟩], responses := [.ok .nothing] }

/-- The lanes at their bounds: 18 bytes and 9 words where `NMAX = 9`. -/
theorem witness_StepKeepsLaneBounds : ∃ s t : State, s.lanesFit = true ∧ step s = .next t :=
  ⟨busy 0x4009 0 (List.replicate 18 7) (List.replicate 9 7), _, by decide, rfl⟩
theorem witness_CfgChangesOnlyByCfgCommand :
    ∃ s t : State, step s = .next t ∧ ∃ c rest, s.pending = c :: rest ∧ c.hdr &&& 0xFFFC = 0x1000 ∧ t.cfg ≠ s.cfg :=
  ⟨busy 0x1000 0 [] [], _, rfl, _, _, rfl, by decide, by decide⟩
theorem witness_InstanceParametersNeverChange : ∃ s t : State, s.pending ≠ [] ∧ step s = .next t :=
  ⟨busy 0x5000 0 [] [1], _, by decide, rfl⟩
theorem witness_StepRunsDecodedInstruction : ∃ (s : State) (c : Command) (rest : List Command) (i : Instr),
    s.pending = c :: rest ∧ c.presentable s.params = true ∧ decode c.hdr = some i :=
  ⟨busy 0x40FF 0 [] [], _, _, .b2w 255, rfl, by decide, by decide⟩
theorem witness_EveryCommandIsAnsweredOnce : ∃ (s : State) (c : Command) (rest : List Command),
    s.pending = c :: rest ∧ c.presentable s.params = true :=
  ⟨busy 0xFFFF 0 (List.replicate 18 7) (List.replicate 9 7), _, _, rfl, by decide⟩
/-- One byte or one word beyond its lane is not presentable; the lane's full length is. -/
theorem witness_StepStopsOnlyOnUnpresentableCommand :
    step (busy 0x2000 0 (List.replicate 19 7) []) = .refused .notPresentable ∧
    step (busy 0x2000 0 [] (List.replicate 10 7)) = .refused .notPresentable ∧
    answerOf (step (busy 0x2000 0 (List.replicate 18 7) (List.replicate 9 7))) = some (.ok (.bytes (List.replicate 18 7))) :=
  ⟨rfl, rfl, by decide⟩
theorem witness_IdleBlockKeepsItsState : State.reset.pending = [] := rfl
theorem witness_PresentedTableWordRuns : (0x6802 < 65536 ∧ decodeTableWord 16 0x6802 = some (.seri true false 2)) ∧
    decodeTableWord 16 0x9000 = some .desf := by decide

/-- A header for every row, with every field bit set. -/
theorem witness_DecodeFollowsOpcodeTable :
    (0x1003#16 &&& 0xFFFC = 0x1000 ∧ 0x2000#16 &&& 0xFFFF = 0x2000 ∧ 0x3000#16 &&& 0xFFFF = 0x3000 ∧
    0x40FF#16 &&& 0xFF00 = 0x4000 ∧ 0x5000#16 &&& 0xFFFF = 0x5000) ∧ 0x6CFF#16 &&& 0xF300 = 0x6000 ∧
    0x7C00#16 &&& 0xF3FF = 0x7000 ∧ 0x80FF#16 &&& 0xFF00 = 0x8000 ∧ 0x9000#16 &&& 0xFFFF = 0x9000 := by decide
theorem witness_OpcodeRowsAreDisjoint :
    ∃ r ∈ opcodeTable, ∃ q ∈ opcodeTable, r.spells 0x6CFF = true ∧ q.spells 0x6CFF = true :=
  ⟨⟨0xF300, 0x6000, fun h => .seri (Header.signed h) (Header.scaled h) (Header.len h)⟩, by simp [opcodeTable],
    ⟨0xF300, 0x6000, fun h => .seri (Header.signed h) (Header.scaled h) (Header.len h)⟩, by simp [opcodeTable], by decide, by decide⟩
theorem witness_IllegalHeaderAnswersUnsupportedEncoding : ∃ (s : State) (c : Command) (rest : List Command),
    s.pending = c :: rest ∧ c.presentable s.params = true ∧ illegalHeader c.hdr :=
  ⟨busy 0x6100 0 [] [], _, _, rfl, by decide, by unfold illegalHeader; decide⟩
theorem witness_DecodeOfEncodeIsTheInstruction : (Instr.seri true true 255).wellFormed = true := by decide
theorem witness_EncodeOfDecodeIsTheHeader : decode 0x6CFF = some (.seri true true 255) := by decide

theorem witness_DataCommandBeforeCfgAnswersNotConfigured : ∃ (s : State) (c : Command) (rest : List Command) (i : Instr),
    s.pending = c :: rest ∧ c.presentable s.params = true ∧ s.cfg = none ∧ decode c.hdr = some i ∧ isCfg i = false :=
  ⟨present .big none 0x6003 0 [] [], _, _, .seri false false 3, rfl, by decide, rfl, by decide, rfl⟩
theorem witness_FailedCommandLeavesNoTrace : ∃ (s t : State) (e : ErrorKind),
    step s = .next t ∧ t.responses = s.responses ++ [.error e] :=
  ⟨busy 0x4000 0 [] [], _, .unsupportedLength, rfl, by decide⟩
/-- A failing command with two causes (program P4, step 4: length before range), and a successful one. -/
theorem witness_ErrorsFollowFixedPriority :
    (∃ (s t : State) (c : Command) (rest : List Command) (r : Response),
      s.pending = c :: rest ∧ step s = .next t ∧ t.responses = s.responses ++ [r] ∧ r = .error .unsupportedLength ∧
      fits false (16 * 3) c.val = false) ∧
    ∃ (s t : State) (c : Command) (rest : List Command) (r : Response) (v : Result),
      s.pending = c :: rest ∧ step s = .next t ∧ t.responses = s.responses ++ [r] ∧ r = .ok v :=
  ⟨⟨busy 0x6003 (1 <<< 100) [] [], _, _, _, _, rfl, rfl, by decide, rfl, by decide⟩,
    ⟨busy 0x6001 0x1234 [] [], _, _, _, _, .words [0x3412], rfl, rfl, by decide, rfl⟩⟩

/-- A command of each opcode, legal and with a reserved bit set. -/
theorem witness_CfgCommand : ∃ (s : State) (c : Command) (rest : List Command),
    s.pending = c :: rest ∧ c.presentable s.params = true ∧ c.hdr.extractLsb' 12 4 = 1 ∧ c.hdr.extractLsb' 2 10 = 0 :=
  ⟨busy 0x1003 0 [] [], _, _, rfl, by decide, by decide, by decide⟩
theorem witness_BotCommand : ∃ (s : State) (c : Command) (rest : List Command) (k : CodecConfig),
    s.pending = c :: rest ∧ c.presentable s.params = true ∧ c.hdr.extractLsb' 12 4 = 2 ∧ s.cfg = some k ∧ k.order ≠ s.params.hostOrder :=
  ⟨busy 0x2000 0 [1, 2, 3] [], _, _, _, rfl, by decide, by decide, rfl, by decide⟩
theorem witness_WswCommand : ∃ (s : State) (c : Command) (rest : List Command) (k : CodecConfig),
    s.pending = c :: rest ∧ c.presentable s.params = true ∧ c.hdr.extractLsb' 12 4 = 3 ∧ s.cfg = some k ∧ k.wswap = true :=
  ⟨busy 0x3000 0 [] [1, 2, 3], _, _, _, rfl, by decide, by decide, rfl, rfl⟩
theorem witness_B2wCommand : ∃ (s : State) (c : Command) (rest : List Command),
    s.pending = c :: rest ∧ c.presentable s.params = true ∧ c.hdr.extractLsb' 12 4 = 4 ∧ s.cfg.isSome = true ∧
    s.params.nmax = 9 ∧ c.bseq.length = 2 * 9 :=
  ⟨busy 0x4009 0 (List.replicate 18 7) [], _, _, rfl, by decide, by decide, rfl, by decide, by decide⟩
theorem witness_W2bCommand : ∃ (s : State) (c : Command) (rest : List Command),
    s.pending = c :: rest ∧ c.presentable s.params = true ∧ c.hdr.extractLsb' 12 4 = 5 ∧ s.cfg.isSome = true ∧ c.wseq.length = 9 :=
  ⟨busy 0x5000 0 [] (List.replicate 9 7), _, _, rfl, by decide, by decide, rfl, by decide⟩
theorem witness_SeriCommand : ∃ (s : State) (c : Command) (rest : List Command),
    s.pending = c :: rest ∧ c.presentable s.params = true ∧ c.hdr.extractLsb' 12 4 = 6 ∧ s.cfg.isSome = true ∧
    fits true (16 * 1) c.val = true :=
  ⟨busy 0x6801 (-32768) [] [], _, _, rfl, by decide, by decide, rfl, by decide⟩
theorem witness_DesiCommand : ∃ (s : State) (c : Command) (rest : List Command),
    s.pending = c :: rest ∧ c.presentable s.params = true ∧ c.hdr.extractLsb' 12 4 = 7 ∧ s.cfg.isSome = true ∧ c.wseq.length = 8 :=
  ⟨busy 0x7800 0 [] (List.replicate 8 7), _, _, rfl, by decide, by decide, rfl, by decide⟩
theorem witness_SerfCommand : ∃ (s : State) (c : Command) (rest : List Command),
    s.pending = c :: rest ∧ c.presentable s.params = true ∧ c.hdr.extractLsb' 12 4 = 8 ∧ s.cfg.isSome = true ∧
    c.val.toNat < 2 ^ (16 * 2) :=
  ⟨busy 0x8002 0xFFFFFFFF [] [], _, _, rfl, by decide, by decide, rfl, by decide⟩
theorem witness_DesfCommand : ∃ (s : State) (c : Command) (rest : List Command),
    s.pending = c :: rest ∧ c.presentable s.params = true ∧ c.hdr.extractLsb' 12 4 = 9 ∧ s.cfg.isSome = true ∧ c.wseq.length = 4 :=
  ⟨busy 0x9000 0 [] [1, 2, 3, 4], _, _, rfl, by decide, by decide, rfl, by decide⟩

theorem witness_OperationsChangeNothingElse :
    (∃ (i : Instr) (s t s' : State), isCfg i = false ∧ exec i s = .next t ∧ s'.params = s.params ∧ s'.cfg = s.cfg ∧
      s'.pending.head? = s.pending.head? ∧ s' ≠ s) ∧
    ∃ (s t : State), exec (.cfg false .big) s = .next t :=
  ⟨⟨.w2b, busy 0x5000 0 [] [1], _, { busy 0x5000 0 [] [1] with responses := [] }, rfl, rfl, rfl, rfl, rfl, by decide⟩,
    busy 0x1000 0 [] [], _, rfl⟩
theorem witness_UnnamedLanesAreNotRead :
    (∃ (i : Instr) (c d : Command), sameOnLane (readsLane i) c d ∧ c ≠ d) ∧
    ∃ (i : Instr) (s t : State) (v : Result), exec i s = .next t ∧ t.responses = s.responses ++ [.ok v] :=
  ⟨⟨.w2b, ⟨0x5000, 0, [], [1]⟩, ⟨0x5000, 9, [2], [1]⟩, rfl, by decide⟩, .wsw, busy 0x3000 0 [] [1], _, .words [1], rfl, by decide⟩
theorem witness_DataCommandsCommute : ∃ (s t u t' u' : State) (c d : Command) (rest : List Command),
    c.hdr &&& 0xFFFC ≠ 0x1000 ∧ d.hdr &&& 0xFFFC ≠ 0x1000 ∧ s.pending = c :: d :: rest ∧
    step s = .next t ∧ step t = .next u ∧ step { s with pending := d :: c :: rest } = .next t' ∧ step t' = .next u' :=
  ⟨busy 0x5000 0 [] [1], _, _, _, _, _, _, _, by decide, by decide, rfl, rfl, rfl, rfl, rfl⟩

theorem witness_ReservedStatusCodesAreNeverDriven : (10 : Status) ≤ 10 ∧ (10 : Status) ≤ 15 := by decide

theorem witness_BotReversesWholeSequence : Order.big ≠ Order.little := by decide
theorem witness_PackLaysWordsBigEndian : ([0x1122, 0x3344] : List Word)[1]? = some 0x3344 := by decide
theorem witness_UnpackInvertsPack : ([1, 2, 3, 4] : List Byte).length = 2 * 2 ∧
    ([1, 2, 3, 4] : List Byte)[2 * 1]? = some 3 ∧ ([1, 2, 3, 4] : List Byte)[2 * 1 + 1]? = some 4 := by decide
theorem witness_WswReversesWholeWords : 1 < ([1, 2] : List Word).length := by decide
theorem witness_WswbReversesByteGroups : ([1, 2, 3, 4] : List Byte).length = 2 * 2 ∧ 1 < 2 := by decide
theorem witness_WordSwapLaws : ([1, 2, 3, 4] : List Byte).length = 2 * 2 ∧ ([7] : List Word).length ≤ 1 := by decide
theorem witness_CompositeFormsAgree : ([1, 2, 3, 4] : List Byte).length = 2 * 2 := by decide
theorem witness_CompositeTransformsInvert : ([1, 2] : List Byte).length = 2 * 1 := by decide
theorem witness_I2bLaysBytesInHostOrder : 16 ∈ [16, 32, 64, 128] ∧ 1 < 16 / 8 ∧ 7 < 8 := by decide
theorem witness_B2iReadsBytesInHostOrder : ([1, 2] : List Byte).length = 16 / 8 ∧ ([1, 2] : List Byte)[1]? = some 2 := by decide
theorem witness_IntegerBytesRoundTrip : (List.replicate 16 (7 : Byte)).length = 128 / 8 := by decide
/-- The extremes of a 16-bit integer, signed and unsigned, and the first values beyond them (R139). -/
theorem witness_FitsMeansRepresentable : (fits true 16 (-32768) = true ∧ fits true 16 32767 = true ∧ fits false 16 65535 = true) ∧
    fits true 16 32768 = false ∧ fits true 16 (-32769) = false ∧ fits false 16 65536 = false ∧ fits false 128 (-1) = true := by decide

theorem witness_SeriRegisterLayout : ∃ (s : State) (c : Command) (rest : List Command) (k : CodecConfig),
    s.pending = c :: rest ∧ s.cfg = some k ∧ 8 ∈ intLengths false ∧ fits true (16 * 8) c.val = true ∧
    1 ∈ intLengths true ∧ fits true (16 * 1) c.val = true :=
  ⟨busy 0x6808 (-32768) [] [], _, _, _, rfl, rfl, by decide, by decide, by decide, by decide⟩
theorem witness_SerfRegisterLayout : ∃ (s : State) (c : Command) (rest : List Command) (k : CodecConfig),
    s.pending = c :: rest ∧ s.cfg = some k ∧ 4 ∈ floatLengths ∧ c.val.toNat < 2 ^ (16 * 4) ∧
    2 ∈ floatLengths ∧ c.val.toNat < 2 ^ (16 * 2) :=
  ⟨busy 0x8004 0xFFFFFFFF [] [], _, _, _, rfl, rfl, by decide, by decide, by decide, by decide⟩
theorem witness_B2wRegisterLayout : ∃ (s : State) (c : Command) (rest : List Command) (k : CodecConfig),
    s.pending = c :: rest ∧ s.cfg = some k ∧ 1 ≤ 9 ∧ 9 ≤ s.params.nmax ∧ c.bseq.length = 2 * 9 :=
  ⟨busy 0x4009 0 (List.replicate 18 7) [], _, _, _, rfl, rfl, by decide, by decide, by decide⟩

theorem witness_DesiUndoesSeri : ∃ (s t s' : State) (c c' : Command) (rest rest' : List Command),
    s.pending = c :: rest ∧ exec (.seri true true 1) s = .next t ∧ t.responses = s.responses ++ [.ok (.words [0x0080])] ∧
    s'.params = s.params ∧ s'.cfg = s.cfg ∧ s'.pending = c' :: rest' ∧ c'.wseq = [0x0080] :=
  ⟨busy 0x6C01 (-32768) [] [], _, busy 0x7C00 0 [] [0x0080], _, _, _, _, rfl, rfl, by decide, rfl, rfl, rfl, rfl⟩
theorem witness_SeriUndoesDesi : ∃ (s t s' : State) (c c' : Command) (rest rest' : List Command),
    s.pending = c :: rest ∧ exec (.desi true true) s = .next t ∧ t.responses = s.responses ++ [.ok (.value (-32768))] ∧
    s'.params = s.params ∧ s'.cfg = s.cfg ∧ s'.pending = c' :: rest' ∧ c'.val = -32768 :=
  ⟨busy 0x7C00 0 [] [0x0080], _, busy 0x6C01 (-32768) [] [], _, _, _, _, rfl, rfl, by decide, rfl, rfl, rfl, rfl⟩
/-- The signaling NaN of section 2.6, written and read back under (1, little). -/
theorem witness_FloatPatternsRoundTrip :
    (∃ (s t s' : State) (c c' : Command) (rest rest' : List Command),
      s.pending = c :: rest ∧ s'.params = s.params ∧ s'.cfg = s.cfg ∧ s'.pending = c' :: rest' ∧
      exec (.serf 2) s = .next t ∧ t.responses = s.responses ++ [.ok (.words c'.wseq)]) ∧
    ∃ (s t s' : State) (c c' : Command) (rest rest' : List Command),
      s.pending = c :: rest ∧ s'.params = s.params ∧ s'.cfg = s.cfg ∧ s'.pending = c' :: rest' ∧
      exec .desf s = .next t ∧ t.responses = s.responses ++ [.ok (.value c'.val)] :=
  ⟨⟨busy 0x8002 0x7FA00001 [] [], _, busy 0x9000 0 [] [0xA07F, 0x0100], _, _, _, _, rfl, rfl, rfl, rfl, rfl, by decide⟩,
    ⟨busy 0x9000 0 [] [0xA07F, 0x0100], _, busy 0x8002 0x7FA00001 [] [], _, _, _, _, rfl, rfl, rfl, rfl, rfl, by decide⟩⟩
theorem witness_RawCommandsUndoEachOther :
    (∃ (s t s' : State) (c c' : Command) (rest rest' : List Command),
      s.pending = c :: rest ∧ s'.params = s.params ∧ s'.cfg = s.cfg ∧ s'.pending = c' :: rest' ∧
      exec (.b2w 2) s = .next t ∧ t.responses = s.responses ++ [.ok (.words c'.wseq)]) ∧
    (∃ (s t s' : State) (c c' : Command) (rest rest' : List Command),
      s.pending = c :: rest ∧ s'.params = s.params ∧ s'.cfg = s.cfg ∧ s'.pending = c' :: rest' ∧
      exec .w2b s = .next t ∧ t.responses = s.responses ++ [.ok (.bytes c'.bseq)] ∧ c.wseq.length ≤ s.params.nmax) ∧
    (∃ (s t s' : State) (c c' : Command) (rest rest' : List Command),
      s.pending = c :: rest ∧ s'.params = s.params ∧ s'.cfg = s.cfg ∧ s'.pending = c' :: rest' ∧
      exec .bot s = .next t ∧ t.responses = s.responses ++ [.ok (.bytes c'.bseq)]) ∧
    ∃ (s t s' : State) (c c' : Command) (rest rest' : List Command),
      s.pending = c :: rest ∧ s'.params = s.params ∧ s'.cfg = s.cfg ∧ s'.pending = c' :: rest' ∧
      exec .wsw s = .next t ∧ t.responses = s.responses ++ [.ok (.words c'.wseq)] :=
  ⟨⟨busy 0x4002 0 [0x0A, 0, 0, 0xE4] [], _, busy 0x5000 0 [] [0x000A, 0xE400], _, _, _, _, rfl, rfl, rfl, rfl, rfl, by decide⟩,
    ⟨busy 0x5000 0 [] [0x000A, 0xE400], _, busy 0x4002 0 [0x0A, 0, 0, 0xE4] [], _, _, _, _, rfl, rfl, rfl, rfl, rfl, by decide, by decide⟩,
    ⟨busy 0x2000 0 [1, 2, 3] [], _, busy 0x2000 0 [3, 2, 1] [], _, _, _, _, rfl, rfl, rfl, rfl, rfl, by decide⟩,
    ⟨busy 0x3000 0 [] [1, 2, 3], _, busy 0x3000 0 [] [3, 2, 1], _, _, _, _, rfl, rfl, rfl, rfl, rfl, by decide⟩⟩
theorem witness_NumericOperationsIgnoreHostOrder : ∃ s t1 t2 t3 t4 : State,
    exec (.seri false false 2) s = .next t1 ∧ exec (.desi false false) s = .next t2 ∧
    exec (.serf 2) s = .next t3 ∧ exec .desf s = .next t4 ∧ s.cfg.isSome = true ∧ s.withHostOrder .little ≠ s :=
  ⟨busy 0x6002 0x11223344 [] [1, 2], _, _, _, _, rfl, rfl, rfl, rfl, rfl, by decide⟩
theorem witness_ScaledFlagOnlyRefusesEightRegisters :
    (∃ (s : State) (c : Command) (rest : List Command), s.pending = c :: rest ∧ s.cfg.isSome = true ∧ c.wseq.length = 8) ∧
    ∃ (s : State) (c : Command) (rest : List Command), s.pending = c :: rest ∧ s.cfg.isSome = true ∧ c.wseq.length ≠ 8 :=
  ⟨⟨busy 0x7400 0 [] (List.replicate 8 7), _, _, rfl, rfl, by decide⟩, ⟨busy 0x7400 0 [] (List.replicate 4 7), _, _, rfl, rfl, by decide⟩⟩
/-- A value that fits under both readings, and registers whose top bit is 0 and whose top bit is 1 (under (1, little), R132). -/
theorem witness_SignedFlagChangesOnlyTheReading :
    (∃ (s : State) (c : Command) (rest : List Command), s.pending = c :: rest ∧
      fits true (16 * 1) c.val = true ∧ fits false (16 * 1) c.val = true ∧ s.cfg.isSome = true ∧ c.wseq.length ∈ intLengths true) ∧
    answerOf (exec (.desi true false) (busy 0x7800 0 [] [0x0080])) = some (.ok (.value (-32768))) ∧
    answerOf (exec (.desi false false) (busy 0x7800 0 [] [0x0080])) = some (.ok (.value 32768)) ∧
    answerOf (exec (.desi true false) (busy 0x7800 0 [] [0x8000])) = some (.ok (.value 0x80)) :=
  ⟨⟨busy 0x7800 0x7FFF [] [0x0080], _, _, rfl, by decide, by decide, rfl, by decide⟩, by decide, by decide, by decide⟩
theorem witness_FloatOperationsAreUnsignedIntegerOnes : ∃ (s : State) (c : Command) (rest : List Command),
    s.pending = c :: rest ∧ c.val.toNat < 2 ^ (16 * 2) ∧ c.wseq.length ∈ [2, 4] :=
  ⟨busy 0x8002 0xFFFFFFFF [] [1, 2], _, _, rfl, by decide, by decide⟩

end Sys2Proof.Tests
end

section
/-! SUPPORT. The frame of the nine operations (00_scope.md R15): the operations other than `CFG` are one shared meaning,
`dataCommand`, applied to a response function that sees no state. -/

namespace Sys2Proof.Machine

/-- The response of an operation under a configuration, as a function of the parameters, the configuration, the starting scratch
buffer and the command, and of no state (R15). `CFG` answers with nothing (R90). -/
def operationResponse (p : Params) : Instr → CodecConfig → Scratch → Command → Response
  | .cfg _ _ => fun _ _ _ => .ok .nothing
  | .bot => fun k _ c => .ok (.bytes (bot p.hostOrder k.order c.bseq))
  | .wsw => fun k _ c => .ok (.words (wsw k.wswap c.wseq))
  | .b2w len => fun k buf c => b2wResponse p k buf len c.bseq
  | .w2b => fun k buf c => w2bResponse p k buf c.wseq
  | .seri signed scaled len => fun k buf c => seriResponse p k buf signed scaled len c.val
  | .desi signed scaled => fun k buf c => desiResponse p k buf signed scaled c.wseq
  | .serf len => fun k buf c => serfResponse p k buf len c.val
  | .desf => fun k buf c => desfResponse p k buf c.wseq

/-- The state enters an operation other than `CFG` only through the frame `dataCommand` and the parameters. -/
theorem exec_eq_dataCommand {i : Instr} (hi : isCfg i = false) (s : State) :
    exec i s = dataCommand s (operationResponse s.params i) := by
  cases i with
  | cfg w o => cases hi
  | bot => rfl
  | wsw => rfl
  | b2w len => rfl
  | w2b => rfl
  | seri signed scaled len => rfl
  | desi signed scaled => rfl
  | serf len => rfl
  | desf => rfl

theorem exec_cfg_eq_withCommand (w : Bool) (o : Order) (s : State) :
    exec (.cfg w o) s = withCommand s fun _ => (s.configure { wswap := w, order := o }).complete .nothing := rfl

/-- An answer changes the queue of commands and the list of responses, and nothing else. -/
theorem State.answer_eq (s : State) (r : Response) :
    s.answer r = { s with pending := s.pending.tail, responses := s.responses ++ [r] } := by
  cases r <;> rfl

/-- The response of a data command depends on the state through the parameters and CFG alone. -/
theorem dataResponse_congr {s s' : State} (hp : s'.params = s.params) (hk : s'.cfg = s.cfg)
    (f : CodecConfig → Scratch → Command → Response) (c : Command) : dataResponse s' f c = dataResponse s f c := by
  simp only [dataResponse, hp, hk]

/-- Settles O31: every operation but `CFG` answers with `dataResponse`, a function of the command, CFG and the parameters
(R15), and `CFG` is `State.configure` and a success. -/
theorem operationsChangeNothingElse : Obligations.OperationsChangeNothingElse := by
  unfold Obligations.OperationsChangeNothingElse
  refine ⟨fun i s t hi h => ?_, fun w o s t h => ?_⟩
  · rw [exec_eq_dataCommand hi] at h
    obtain ⟨c, rest, hs, rfl⟩ := dataCommand_next h
    refine ⟨s.answer_params _, s.answer_cfg _, s.answer_pending _, _, s.answer_responses _, fun s' hp hk hh => ?_⟩
    obtain ⟨rest', hs'⟩ : ∃ rest', s'.pending = c :: rest' := List.head?_eq_some_iff.mp (by rw [hh, hs]; rfl)
    rw [exec_eq_dataCommand hi, dataCommand_cons hs', State.answer_eq, dataResponse_congr hp hk, hp]
  · rw [exec_cfg_eq_withCommand] at h
    obtain ⟨c, rest, -, rfl⟩ := withCommand_next h
    exact ⟨rfl, rfl, rfl, rfl⟩

end Sys2Proof.Machine
end

section
/-! SUPPORT. What a step can do, said once (00_scope.md R10, 20_memory.md R55), and which steps write CFG (10_state.md R24). -/

namespace Sys2Proof

/-- The only row of R66 that spells `CFG` is the first, and it takes WSWAP and ORDER from HDR[1:0] (R62). -/
theorem decode_eq_cfg {h : Header} {w : Bool} {o : Order} (hd : decode h = some (.cfg w o)) :
    h &&& 0xFFFC = 0x1000 ∧ w = h.getLsbD 1 ∧ o = Order.ofBit (h.getLsbD 0) := by
  rw [decode_eq] at hd
  by_cases hm : h &&& 0xFFFC = 0x1000
  · rw [if_pos hm] at hd
    cases hd
    exact ⟨hm, rfl, rfl⟩
  · rw [if_neg hm] at hd
    split_ifs at hd <;> cases hd

end Sys2Proof

namespace Sys2Proof.Machine

/-- A step that answers a next state found no command, or an illegal header, or executed the decoded instruction. -/
theorem step_next {s t : State} (h : step s = .next t) :
    (s.pending = [] ∧ t = s) ∨
    ∃ c rest, s.pending = c :: rest ∧ c.presentable s.params = true ∧
      ((decode c.hdr = none ∧ t = s.raise .unsupportedEncoding) ∨ ∃ i, decode c.hdr = some i ∧ exec i s = .next t) := by
  unfold step at h
  cases hp : s.pending with
  | nil =>
    rw [presented_nil hp] at h
    cases h
    exact .inl ⟨rfl, rfl⟩
  | cons c rest =>
    cases hc : c.presentable s.params with
    | false => rw [presented_tooLong hp hc] at h; cases h
    | true =>
      simp only [presented_command hp hc] at h
      refine .inr ⟨c, rest, rfl, hc, ?_⟩
      cases hd : decode c.hdr with
      | none => rw [hd] at h; cases h; exact .inl ⟨rfl, rfl⟩
      | some i => rw [hd] at h; exact .inr ⟨i, rfl, h⟩

/-- An operation other than `CFG` leaves CFG alone. -/
theorem exec_keeps_cfg {i : Instr} (hi : isCfg i = false) {s t : State} (h : exec i s = .next t) : t.cfg = s.cfg := by
  rw [exec_eq_dataCommand hi] at h
  obtain ⟨c, rest, -, rfl⟩ := dataCommand_next h
  exact s.answer_cfg _

theorem exec_cfg_writes_pair {w : Bool} {o : Order} {s t : State} (h : exec (.cfg w o) s = .next t) :
    t.cfg = some { wswap := w, order := o } := by
  rw [exec_cfg_eq_withCommand] at h
  obtain ⟨c, rest, -, rfl⟩ := withCommand_next h
  rfl

theorem eq_cfg_of_isCfg {i : Instr} (hi : isCfg i = true) : ∃ w o, i = .cfg w o := by
  cases i with
  | cfg w o => exact ⟨w, o, rfl⟩
  | _ => cases hi

/-- Settles O4: an idle step and an error leave CFG alone, a decoded instruction other than `CFG` answers in the frame
`dataCommand`, and `CFG` writes the pair its header spells. -/
theorem cfgChangesOnlyByCfgCommand : Obligations.CfgChangesOnlyByCfgCommand := by
  unfold Obligations.CfgChangesOnlyByCfgCommand
  intro s t h
  obtain ⟨-, rfl⟩ | ⟨c, rest, hs, -, ⟨-, rfl⟩ | ⟨i, hd, he⟩⟩ := step_next h
  · exact .inl rfl
  · exact .inl (s.raise_cfg _)
  · cases hi : isCfg i with
    | false => exact .inl (exec_keeps_cfg hi he)
    | true =>
      obtain ⟨w, o, rfl⟩ := eq_cfg_of_isCfg hi
      obtain ⟨hm, rfl, rfl⟩ := decode_eq_cfg hd
      exact .inr ⟨c, rest, hs, hm, exec_cfg_writes_pair he⟩

end Sys2Proof.Machine
end

section
/-! SUPPORT. The lanes of the nine operations (10_state.md R32, the columns "reads lanes" and "result lanes" of
30_encoding.md R66). -/

namespace Sys2Proof.Machine

/-- The response of an operation depends on the command through the lane the operation reads. -/
theorem operationResponse_congr_lane {i : Instr} {c d : Command} (h : sameOnLane (readsLane i) c d) (p : Params)
    (k : CodecConfig) (buf : Scratch) : operationResponse p i k buf c = operationResponse p i k buf d := by
  cases i with
  | cfg w o => rfl
  | bot => exact congrArg (fun b => Except.ok (Result.bytes (bot p.hostOrder k.order b))) h
  | wsw => exact congrArg (fun w => Except.ok (Result.words (wsw k.wswap w))) h
  | b2w len => exact congrArg (b2wResponse p k buf len) h
  | w2b => exact congrArg (w2bResponse p k buf) h
  | seri signed scaled len => exact congrArg (seriResponse p k buf signed scaled len) h
  | desi signed scaled => exact congrArg (desiResponse p k buf signed scaled) h
  | serf len => exact congrArg (serfResponse p k buf len) h
  | desf => exact congrArg (desfResponse p k buf) h

theorem dataResponse_congr_command {s : State} {f : CodecConfig → Scratch → Command → Response} {c d : Command}
    (h : ∀ k buf, f k buf c = f k buf d) : dataResponse s f c = dataResponse s f d := by
  cases hk : s.cfg with
  | none => rw [dataResponse_unconfigured hk, dataResponse_unconfigured hk]
  | some k => rw [dataResponse_configured hk, dataResponse_configured hk, h]

/-- A data command that succeeds found CFG configured. -/
theorem dataResponse_ok {s : State} {f : CodecConfig → Scratch → Command → Response} {c : Command} {v : Result}
    (h : dataResponse s f c = .ok v) : ∃ k, s.cfg = some k ∧ f k (Scratch.fresh s.params) c = .ok v := by
  cases hk : s.cfg with
  | none => rw [dataResponse_unconfigured hk] at h; cases h
  | some k => rw [dataResponse_configured hk] at h; exact ⟨k, rfl, h⟩

/-- A success behind one of the error checks of 60_exceptions.md R176 comes from the branch after the check. -/
theorem ok_of_check {e : ErrorKind} {r : Response} {v : Result} {b : Prop} [Decidable b]
    (h : (if b then .error e else r) = .ok v) : r = .ok v := by
  split at h
  · cases h
  · exact h

/-- The data of a success are on the operation's result lane. -/
theorem operationResponse_ok_lane {p : Params} {i : Instr} {k : CodecConfig} {buf : Scratch} {c : Command} {v : Result}
    (h : operationResponse p i k buf c = .ok v) : v.lane = resultLane i := by
  cases i with
  | cfg w o => cases h; rfl
  | bot => cases h; rfl
  | wsw => cases h; rfl
  | b2w len => cases ok_of_check (ok_of_check h); rfl
  | w2b => cases ok_of_check h; rfl
  | seri signed scaled len => cases ok_of_check (ok_of_check h); rfl
  | desi signed scaled => cases ok_of_check h; rfl
  | serf len => cases ok_of_check (ok_of_check h); rfl
  | desf => cases ok_of_check h; rfl

/-- An operation reads no lane but the one it names, whatever commands wait behind. -/
theorem exec_congr_lane {i : Instr} {c d : Command} (h : sameOnLane (readsLane i) c d) (s : State) (rest : List Command) :
    exec i { s with pending := c :: rest } = exec i { s with pending := d :: rest } := by
  cases hi : isCfg i with
  | true => obtain ⟨w, o, rfl⟩ := eq_cfg_of_isCfg hi; rfl
  | false =>
    rw [exec_eq_dataCommand hi, exec_eq_dataCommand hi, dataCommand_cons rfl, dataCommand_cons rfl, State.answer_eq,
      State.answer_eq, dataResponse_congr_command (operationResponse_congr_lane h s.params)]
    rfl

/-- A success that a step of an operation appends is on the operation's result lane. -/
theorem exec_result_lane {i : Instr} {s t : State} {v : Result} (h : exec i s = .next t)
    (hr : t.responses = s.responses ++ [.ok v]) : v.lane = resultLane i := by
  cases hi : isCfg i with
  | true =>
    obtain ⟨w, o, rfl⟩ := eq_cfg_of_isCfg hi
    obtain ⟨c, rest, -, rfl⟩ := withCommand_next h
    cases List.append_cancel_left hr
    rfl
  | false =>
    rw [exec_eq_dataCommand hi] at h
    obtain ⟨c, rest, -, rfl⟩ := dataCommand_next h
    rw [State.answer_responses] at hr
    obtain ⟨k, -, hv⟩ := dataResponse_ok (List.singleton_inj.mp (List.append_cancel_left hr))
    exact operationResponse_ok_lane hv

/-- Settles O32: a meaning sees the command through `operationResponse`, which reads one lane and succeeds on one lane. -/
theorem unnamedLanesAreNotRead : Obligations.UnnamedLanesAreNotRead := by
  unfold Obligations.UnnamedLanesAreNotRead
  exact ⟨fun _ s _ _ rest h => exec_congr_lane h s rest, fun _ _ _ _ h hr => exec_result_lane h hr⟩

end Sys2Proof.Machine
end

section
/-! SUPPORT. Where `pack` puts the two bytes of each word (20_memory.md R41), for every index, inside the sequence or beyond it. -/

namespace Sys2Proof.Machine

theorem pack_getElem?_two_mul (w : List Word) (i : Nat) : (pack w)[2 * i]? = w[i]?.map wordHigh := by
  induction w generalizing i with
  | nil => rfl
  | cons x xs ih =>
    cases i with
    | zero => rfl
    | succ i => exact ih i

theorem pack_getElem?_two_mul_add_one (w : List Word) (i : Nat) : (pack w)[2 * i + 1]? = w[i]?.map wordLow := by
  induction w generalizing i with
  | nil => rfl
  | cons x xs ih =>
    cases i with
    | zero => rfl
    | succ i => exact ih i

/-- Settles O37: `pack` doubles the length, and its bytes at the even and at the odd indices are the high and the low bytes of
the words. -/
theorem packLaysWordsBigEndian : Obligations.PackLaysWordsBigEndian := by
  unfold Obligations.PackLaysWordsBigEndian
  refine ⟨pack_nil, by decide, fun w => ⟨pack_length w, fun i x hx => ⟨?_, ?_⟩⟩⟩
  · rw [pack_getElem?_two_mul, hx]; rfl
  · rw [pack_getElem?_two_mul_add_one, hx]; rfl

end Sys2Proof.Machine
end

section
/-! SUPPORT. The illegal headers (30_encoding.md R68): decoding refuses a header exactly when no row of the table takes it, and a
step on such a header answers `UnsupportedEncoding` before it looks at CFG or a lane (60_exceptions.md R168). -/

namespace Sys2Proof

theorem decodeRows_eq_none_iff (rs : List Row) (h : Header) : decodeRows rs h = none ↔ ∀ r ∈ rs, r.spells h = false := by
  induction rs with
  | nil => simp
  | cons r rs ih =>
    rw [decodeRows_cons, List.forall_mem_cons]
    cases hr : r.spells h with
    | true => simp
    | false => simpa using ih

end Sys2Proof

namespace Sys2Proof.Machine

/-- R68's nine inequations are the nine rows of R66, each not spelled. -/
theorem illegalHeader_iff_no_row_spells (h : Header) : illegalHeader h ↔ ∀ r ∈ opcodeTable, r.spells h = false := by
  simp only [illegalHeader, opcodeTable, Row.spells, List.forall_mem_cons, List.not_mem_nil, false_imp_iff,
    implies_true, and_true, beq_eq_false_iff_ne]

theorem decode_eq_none_iff_illegalHeader (h : Header) : decode h = none ↔ illegalHeader h :=
  (decodeRows_eq_none_iff opcodeTable h).trans (illegalHeader_iff_no_row_spells h).symm

/-- A presentable command whose header decodes to nothing ends with `UnsupportedEncoding`. -/
theorem step_of_decode_eq_none {s : State} {c : Command} {rest : List Command} (hs : s.pending = c :: rest)
    (hc : c.presentable s.params = true) (hd : decode c.hdr = none) : step s = .next (s.raise .unsupportedEncoding) := by
  simp only [step, presented_command hs hc, hd]

/-- Settles O13: no row spells an illegal header, so decoding refuses it, and the step raises the error without running a
meaning. -/
theorem illegalHeaderAnswersUnsupportedEncoding : Obligations.IllegalHeaderAnswersUnsupportedEncoding := by
  unfold Obligations.IllegalHeaderAnswersUnsupportedEncoding
  refine ⟨decode_eq_none_iff_illegalHeader, by unfold illegalHeader; decide, by unfold illegalHeader; decide,
    fun s c rest hs hc hh => ?_⟩
  rw [step_of_decode_eq_none hs hc ((decode_eq_none_iff_illegalHeader c.hdr).mpr hh), State.raise, hs, List.tail_cons]

end Sys2Proof.Machine
end

section
/-! SUPPORT. The opcode HDR[15:12] chooses at most one row of 30_encoding.md R66, and the row's reserved field then decides whether
the header is legal (R68). -/

namespace Sys2Proof

/-- HDR[15:12] of every header that spells the row (R61). -/
def Row.opcode (r : Row) : BitVec 4 := r.spelling.extractLsb' 12 4

theorem extractLsb'_opcode_and (h : Header) : (h &&& 0xF000).extractLsb' 12 4 = h.extractLsb' 12 4 := by
  rw [BitVec.extractLsb'_and]
  exact BitVec.and_allOnes

theorem Row.opcode_of_spells {r : Row} {h : Header} (hm : r.mask &&& 0xF000 = 0xF000) (hs : r.spells h = true) :
    h.extractLsb' 12 4 = r.opcode := by
  rw [Row.opcode, ← extractLsb'_opcode_and h, opcode_of_mask (beq_iff_eq.mp hs) hm, extractLsb'_opcode_and]

/-- Among rows of distinct opcodes, a header can spell only the row of its own opcode. -/
theorem decodeRows_of_opcode {rs : List Row} (hm : ∀ r ∈ rs, r.mask &&& 0xF000 = 0xF000) (hd : (rs.map Row.opcode).Nodup)
    {r : Row} (hr : r ∈ rs) {h : Header} (ho : h.extractLsb' 12 4 = r.opcode) :
    decodeRows rs h = if r.spells h then some (r.build h) else none := by
  induction rs with
  | nil => cases hr
  | cons q qs ih =>
    rw [List.forall_mem_cons] at hm
    obtain ⟨hq, hqs⟩ := hm
    rw [List.map_cons, List.nodup_cons] at hd
    obtain ⟨hnotin, hd⟩ := hd
    rw [decodeRows_cons]
    rcases List.mem_cons.mp hr with rfl | hr
    · have htail : decodeRows qs h = none := (decodeRows_eq_none_iff qs h).mpr fun q hmem => by
        rw [Bool.eq_false_iff]
        intro hs
        exact hnotin (List.mem_map.mpr ⟨q, hmem, (q.opcode_of_spells (hqs q hmem) hs).symm.trans ho⟩)
      rw [htail]
    · have hne : ¬ q.spells h = true := fun hs =>
        hnotin (List.mem_map.mpr ⟨r, hr, ho.symm.trans (q.opcode_of_spells hq hs)⟩)
      rw [if_neg hne, ih hqs hd hr]

/-- A header with a row's opcode decodes to the row's operation, or is illegal. -/
theorem decode_of_opcode {r : Row} (hr : r ∈ opcodeTable) {h : Header} (ho : h.extractLsb' 12 4 = r.opcode) :
    decode h = if r.spells h then some (r.build h) else none :=
  decodeRows_of_opcode (by simp [opcodeTable]) (by decide) hr ho

/-- A row whose mask is HDR[15:12] and the reserved field of `n` bits at `lo` is spelled, by a header of its opcode, exactly when
the reserved field is zero. -/
theorem Row.spells_iff_reserved_eq_zero {r : Row} {lo n : Nat}
    (hm : ∀ i < 16, r.mask.getLsbD i = decide (12 ≤ i ∨ lo ≤ i ∧ i < lo + n)) (hs : ∀ i < 12, r.spelling.getLsbD i = false)
    (hn : lo + n ≤ 12) {h : Header} (ho : h.extractLsb' 12 4 = r.opcode) :
    r.spells h = true ↔ h.extractLsb' lo n = 0 := by
  rw [Row.spells, beq_iff_eq]
  constructor
  · intro heq
    refine BitVec.eq_of_getLsbD_eq fun j hj => ?_
    have hbit : (h &&& r.mask).getLsbD (lo + j) = false := by rw [heq, hs _ (by omega)]
    have hmask : r.mask.getLsbD (lo + j) = true := by rw [hm _ (by omega)]; simp [hj]
    simpa [hmask, hj] using hbit
  · intro hz
    refine BitVec.eq_of_getLsbD_eq fun i hi => ?_
    rw [BitVec.getLsbD_and, hm i hi]
    by_cases hop : 12 ≤ i
    · have hbit := congrArg (BitVec.getLsbD · (i - 12)) ho
      simpa [Row.opcode, hop, show i - 12 < 4 by omega] using hbit
    · rw [hs i (by omega)]
      by_cases hres : lo ≤ i ∧ i < lo + n
      · have hbit := congrArg (BitVec.getLsbD · (i - lo)) hz
        simpa [hres, show i - lo < n by omega] using hbit
      · simp [hop, hres]

/-- A header with the opcode of `CFG` is legal exactly when HDR[11:2] is zero (40_config.md R90). -/
theorem decode_of_cfg_opcode {h : Header} (ho : h.extractLsb' 12 4 = 1) :
    decode h = if h.extractLsb' 2 10 = 0 then some (.cfg (h.getLsbD 1) (Order.ofBit (h.getLsbD 0))) else none := by
  rw [decode_of_opcode (List.mem_cons_self ..) ho]
  exact if_congr (Row.spells_iff_reserved_eq_zero (by decide) (by decide) (by decide) ho) rfl rfl

end Sys2Proof

namespace Sys2Proof.Machine

/-- A presentable command whose header decodes runs the decoded operation. -/
theorem step_of_decode_eq_some {s : State} {c : Command} {rest : List Command} (hs : s.pending = c :: rest)
    (hc : c.presentable s.params = true) {i : Instr} (hd : decode c.hdr = some i) : step s = exec i s := by
  simp only [step, presented_command hs hc, hd]

/-- Settles O22: `CFG` is `State.configure` and a success with no data, and a header with its opcode decodes to it unless a
reserved bit is set (R90). -/
theorem cfgCommand : Obligations.CfgCommand := by
  unfold Obligations.CfgCommand
  intro s c rest hs
  refine ⟨fun w o => ?_, fun hc ho => ?_⟩
  · rw [exec_cfg_eq_withCommand, withCommand_cons hs, State.complete, State.configure_pending, hs]
    rfl
  · have hd := decode_of_cfg_opcode ho
    by_cases hz : c.hdr.extractLsb' 2 10 = 0
    · rw [if_pos hz] at hd ⊢
      exact step_of_decode_eq_some hs hc hd
    · rw [if_neg hz] at hd ⊢
      exact step_of_decode_eq_none hs hc hd

end Sys2Proof.Machine
end

section
/-! SUPPORT. The byte-order multiplexer alone (41_byte_order_mux.md R96, R99): the function BOT element by element, and the command
that runs it. -/

namespace Sys2Proof.Machine

/-- The response of a data operation in the words of the claims: the operation's own response under the configuration. -/
theorem dataResponse_eq_underCfg (s : State) (f : CodecConfig → Scratch → Command → Response) (c : Command) :
    dataResponse s f c = underCfg s fun k => f k (Scratch.fresh s.params) c := by
  unfold dataResponse underCfg
  cases s.cfg with
  | none => rfl
  | some k => rfl

/-- With a command pending, an operation other than `CFG` answers `NotConfigured` or its own response to that command (R175). -/
theorem exec_eq_answer_underCfg {i : Instr} (hi : isCfg i = false) {s : State} {c : Command} {rest : List Command}
    (hs : s.pending = c :: rest) :
    exec i s = .next (s.answer (underCfg s fun k => operationResponse s.params i k (Scratch.fresh s.params) c)) := by
  rw [exec_eq_dataCommand hi, dataCommand_cons hs, dataResponse_eq_underCfg]

/-- A presentable command whose opcode is a row's, with `P` saying that the row's reserved bits are clear, runs the row's operation
or answers `UnsupportedEncoding` (R68). -/
theorem step_of_opcode {r : Row} (hr : r ∈ opcodeTable) {s : State} {c : Command} {rest : List Command}
    (hs : s.pending = c :: rest) (hc : c.presentable s.params = true) (ho : c.hdr.extractLsb' 12 4 = r.opcode)
    {P : Prop} [Decidable P] (hP : r.spells c.hdr = true ↔ P) :
    step s = if P then exec (r.build c.hdr) s else .next (s.raise .unsupportedEncoding) := by
  have hd : decode c.hdr = if P then some (r.build c.hdr) else none := (decode_of_opcode hr ho).trans (if_congr hP rfl rfl)
  split_ifs at hd ⊢
  · exact step_of_decode_eq_some hs hc hd
  · exact step_of_decode_eq_none hs hc hd

/-- The row of `BOT` in R66 has the reserved field HDR[11:0]. -/
theorem step_of_bot_opcode {s : State} {c : Command} {rest : List Command} (hs : s.pending = c :: rest)
    (hc : c.presentable s.params = true) (ho : c.hdr.extractLsb' 12 4 = 2) :
    step s = if c.hdr.extractLsb' 0 12 = 0 then exec .bot s else .next (s.raise .unsupportedEncoding) :=
  step_of_opcode (r := ⟨0xFFFF, 0x2000, fun _ => .bot⟩) (by simp [opcodeTable]) hs hc ho
    (Row.spells_iff_reserved_eq_zero (by decide) (by decide) (by decide) ho)

/-- Settles O23: `BOT` answers in the frame of the data operations with the function of R96, which checks no length, and a header
with its opcode decodes to it unless a reserved bit is set (R99). -/
theorem botCommand : Obligations.BotCommand := by
  unfold Obligations.BotCommand
  exact fun _ _ _ hs => ⟨exec_eq_answer_underCfg (i := .bot) rfl hs, step_of_bot_opcode hs⟩

theorem bot_differ_getElem? {host order : Order} (h : order ≠ host) {b : List Byte} {j : Nat} (hj : j < b.length) :
    (bot host order b)[j]? = b[b.length - 1 - j]? := by
  rw [bot_differ h, List.getElem?_reverse hj]

/-- Settles O35: BOT passes the sequence through under equal orders, and reverses it, which keeps its length, otherwise. -/
theorem botReversesWholeSequence : Obligations.BotReversesWholeSequence := by
  unfold Obligations.BotReversesWholeSequence
  refine fun host order b => ⟨?_, fun h => ⟨bot_length host order b, fun j hj => bot_differ_getElem? h hj⟩⟩
  rintro rfl
  exact bot_same order b

end Sys2Proof.Machine
end

section
/-! SUPPORT. The word swapper alone and the raw-byte pipeline (42_word_swapper.md R109, R117, R118): an operation's response under
a configuration does not depend on the starting scratch buffer, and its opcode with clear reserved bits runs it. -/

namespace Sys2Proof.Machine

/-- An operation other than `CFG` whose response is the same from every starting scratch buffer answers that response (R33). -/
theorem exec_eq_answer_of_response {i : Instr} (hi : isCfg i = false) {s : State} {c : Command} {rest : List Command}
    (hs : s.pending = c :: rest) {f : CodecConfig → Response}
    (hf : ∀ k buf, operationResponse s.params i k buf c = f k) : exec i s = .next (s.answer (underCfg s f)) := by
  simp only [exec_eq_answer_underCfg hi hs, hf]

/-- A row whose mask is HDR[15:12] and the reserved field of `n` bits at `lo` (R66): a presentable command of its opcode runs its
operation, or answers `UnsupportedEncoding` when a bit of that field is set (R68). -/
theorem step_of_opcode_reserved {r : Row} (lo n : Nat) (hr : r ∈ opcodeTable)
    (hm : ∀ i < 16, r.mask.getLsbD i = decide (12 ≤ i ∨ lo ≤ i ∧ i < lo + n)) (hz : ∀ i < 12, r.spelling.getLsbD i = false)
    (hn : lo + n ≤ 12) {s : State} {c : Command} {rest : List Command} (hs : s.pending = c :: rest)
    (hc : c.presentable s.params = true) (ho : c.hdr.extractLsb' 12 4 = r.opcode) :
    step s = if c.hdr.extractLsb' lo n = 0 then exec (r.build c.hdr) s else .next (s.raise .unsupportedEncoding) :=
  step_of_opcode hr hs hc ho (Row.spells_iff_reserved_eq_zero hm hz hn ho)

/-- The response of `B2W`, with its errors in R117's order: the length check makes the buffer exactly full, so B2W reads back the byte
lane and nothing of the starting scratch buffer (R117, R33). -/
theorem b2wResponse_eq (p : Params) (k : CodecConfig) (buf : Scratch) (len : Nat) (h : List Byte) :
    b2wResponse p k buf len h =
      if len = 0 ∨ p.nmax < len then .error .unsupportedLength
      else if h.length ≠ 2 * len then .error .lengthMismatch
      else .ok (.words (b2w p.hostOrder k h)) := by
  unfold b2wResponse
  by_cases hl : h.length = 2 * len
  · rw [bufferToRegisters_eq p k buf hl]
  · simp only [if_pos hl]

/-- The response of `W2B`: the scratch buffer is filled by W2B itself, to exactly the length read back (R118, R33). -/
theorem w2bResponse_eq (p : Params) (k : CodecConfig) (buf : Scratch) (w : List Word) :
    w2bResponse p k buf w =
      if w.length = 0 then .error .unsupportedLength else .ok (.bytes (w2b p.hostOrder k w)) := by
  rw [w2bResponse, registersToBuffer_eq]

/-- Settles O24: `WSW` answers in the frame of the data operations with the function of R106, which reads WSWAP alone and checks
no length, and its row of R66 has the reserved field HDR[11:0]. -/
theorem wswCommand : Obligations.WswCommand := by
  unfold Obligations.WswCommand
  exact fun _ _ _ hs => ⟨exec_eq_answer_underCfg (i := .wsw) rfl hs,
    step_of_opcode_reserved (r := ⟨0xFFFF, 0x3000, fun _ => .wsw⟩) 0 12 (by simp [opcodeTable]) (by decide) (by decide)
      (by decide) hs⟩

/-- Settles O25: `B2W` answers with `b2wResponse`, whose checks are R117's in order, and its row of R66 has the reserved field
HDR[11:8]. -/
theorem b2wCommand : Obligations.B2wCommand := by
  unfold Obligations.B2wCommand
  exact fun s c _ hs =>
    ⟨fun len => exec_eq_answer_of_response (i := .b2w len) rfl hs fun k buf => b2wResponse_eq s.params k buf len c.bseq,
      step_of_opcode_reserved (r := ⟨0xFF00, 0x4000, fun h => .b2w (Header.len h)⟩) 8 4 (by simp [opcodeTable])
        (by decide) (by decide) (by decide) hs⟩

/-- Settles O26: `W2B` answers with `w2bResponse`, whose one check is that there is a register (R118), and its row of R66 has the
reserved field HDR[11:0]. -/
theorem w2bCommand : Obligations.W2bCommand := by
  unfold Obligations.W2bCommand
  exact fun s c _ hs =>
    ⟨exec_eq_answer_of_response (i := .w2b) rfl hs fun k buf => w2bResponse_eq s.params k buf c.wseq,
      step_of_opcode_reserved (r := ⟨0xFFFF, 0x5000, fun _ => .w2b⟩) 0 12 (by simp [opcodeTable]) (by decide) (by decide)
        (by decide) hs⟩

end Sys2Proof.Machine
end

section
/-! SUPPORT. The two forms of the word swap (42_word_swapper.md R106, R107): a byte sequence of even length is `pack` of its words,
and the byte form is the word form under `pack`. -/

namespace Sys2Proof.Machine

@[simp] theorem wordHigh_wordOf (hi lo : Byte) : wordHigh (wordOf hi lo) = hi :=
  BitVec.extractLsb'_append_eq_left

@[simp] theorem wordLow_wordOf (hi lo : Byte) : wordLow (wordOf hi lo) = lo :=
  BitVec.extractLsb'_append_eq_right

theorem pack_unpack_even (n : Nat) : ∀ b : List Byte, b.length = 2 * n → pack (unpack b) = b := by
  induction n with
  | zero => intro b h; simp [List.length_eq_zero_iff.mp h]
  | succ n ih =>
    intro b h
    match b, h with
    | hi :: lo :: rest, h =>
      have hr : rest.length = 2 * n := by simp only [List.length_cons] at h; omega
      simp only [unpack_pair, pack_cons, wordHigh_wordOf, wordLow_wordOf, ih rest hr]

theorem reverseGroups_pack (w : List Word) : reverseGroups (pack w) = pack w.reverse := by
  induction w with
  | nil => rfl
  | cons x xs ih => rw [pack_cons, reverseGroups_pair, ih, List.reverse_cons, pack_append, pack_cons, pack_nil]

/-- The byte form of the word swap is the word form on the words of the sequence. -/
theorem wswb_pack (sw : Bool) (w : List Word) : wswb sw (pack w) = pack (wsw sw w) := by
  cases sw with
  | false => rfl
  | true => exact reverseGroups_pack w

theorem wsw_true_getElem? {w : List Word} {i : Nat} (hi : i < w.length) : (wsw true w)[i]? = w[w.length - 1 - i]? := by
  rw [wsw_true, List.getElem?_reverse hi]

/-- Settles O39: WSW passes the words through when the bit is clear, and reverses them, which keeps their number, when it is set. -/
theorem wswReversesWholeWords : Obligations.WswReversesWholeWords := by
  unfold Obligations.WswReversesWholeWords
  exact fun w => ⟨wsw_false w, wsw_length true w, fun _ hi => wsw_true_getElem? hi⟩

/-- Settles O40: on `pack` of `n` words WSWB is `pack` of the reversed words, and `pack` puts the high byte of a word at the even
index of its group and the low byte at the odd one. -/
theorem wswbReversesByteGroups : Obligations.WswbReversesByteGroups := by
  unfold Obligations.WswbReversesByteGroups
  intro n b hb
  obtain ⟨w, rfl⟩ : ∃ w, pack w = b := ⟨unpack b, pack_unpack_even n b hb⟩
  have hw : w.length = n := by rw [pack_length] at hb; omega
  refine ⟨wswb_false _, by rw [wswb_pack, pack_length, wsw_length, hw], fun i k hi hk => ?_⟩
  have hswap : (wsw true w)[i]? = w[n - 1 - i]? := by rw [wsw_true_getElem? (hw ▸ hi), hw]
  rw [wswb_pack]
  match k, hk with
  | 0, _ => rw [Nat.add_zero, Nat.add_zero, pack_getElem?_two_mul, pack_getElem?_two_mul, hswap]
  | 1, _ => rw [pack_getElem?_two_mul_add_one, pack_getElem?_two_mul_add_one, hswap]

end Sys2Proof.Machine
end

section
/-! SUPPORT. The integer serializers (43_int_serializers.md R126, R127, R131, R132): which bit of the integer each bit of each byte
is, and the two commands that run them. -/

namespace Sys2Proof.Machine

theorem i2b_little_getElem? {w : Nat} (x : BitVec w) {j : Nat} (hj : j < w / 8) :
    (i2b .little w x)[j]? = some (x.extractLsb' (8 * j) 8) := by
  simp [i2b, hj]

theorem i2b_big_getElem? {w : Nat} (x : BitVec w) {j : Nat} (hj : j < w / 8) :
    (i2b .big w x)[j]? = some (x.extractLsb' (w - 8 - 8 * j) 8) := by
  simp [i2b, hj]

/-- Settles O44: I2B is a list of the `w/8` bytes of the integer, byte `j` of which begins at bit `8j` in little order and at bit
`w-8-8j` in big order, for every width. -/
theorem i2bLaysBytesInHostOrder : Obligations.I2bLaysBytesInHostOrder := by
  unfold Obligations.I2bLaysBytesInHostOrder
  exact fun w _ x => ⟨fun host => i2b_length host w x, fun j hj =>
    ⟨⟨_, i2b_little_getElem? x hj, fun _ hb => by simp [hb]⟩,
      ⟨_, i2b_big_getElem? x hj, fun _ hb => by simp [hb]⟩⟩⟩

/-- Byte `j` of a sequence that is read least significant byte first stands at bit `8j`. -/
theorem fromLittle_getLsbD {w : Nat} {h : List Byte} {j b : Nat} {y : Byte} (hy : h[j]? = some y) (hb : b < 8)
    (hw : 8 * j + b < w) : (fromLittle w h).getLsbD (8 * j + b) = y.getLsbD b := by
  induction h generalizing j with
  | nil => cases hy
  | cons x xs ih =>
    rw [fromLittle, BitVec.getLsbD_or, BitVec.getLsbD_setWidth, BitVec.getLsbD_shiftLeft]
    cases j with
    | zero =>
      cases hy
      simp [hb, show b < w by omega]
    | succ j =>
      have hhigh : x.getLsbD (8 * (j + 1) + b) = false := BitVec.getLsbD_of_ge x _ (by omega)
      have htail : (fromLittle w xs).getLsbD (8 * j + b) = y.getLsbD b := ih hy (by omega)
      rw [hhigh, show 8 * (j + 1) + b - 8 = 8 * j + b by omega, htail]
      simp [hw, show 8 ≤ 8 * (j + 1) + b by omega]

/-- In big order byte `j` of the `w/8` bytes is byte `w/8-1-j` of the little reading. -/
theorem b2i_big_getLsbD {w : Nat} {h : List Byte} (hh : 8 * h.length = w) {j b : Nat} {y : Byte} (hy : h[j]? = some y)
    (hb : b < 8) : (b2i .big w h).getLsbD (w - 8 - 8 * j + b) = y.getLsbD b := by
  have hj : j < h.length := (List.getElem?_eq_some_iff.mp hy).1
  have hrev : h.reverse[h.length - 1 - j]? = some y := by
    rw [List.getElem?_reverse (by omega), show h.length - 1 - (h.length - 1 - j) = j by omega, hy]
  rw [show w - 8 - 8 * j + b = 8 * (h.length - 1 - j) + b by omega]
  exact fromLittle_getLsbD hrev hb (by omega)

/-- Settles O45: B2I is `fromLittle` of the bytes in little order and of their reverse in big order, and the bytes fill the integer
exactly, as 8 divides each of the four widths. -/
theorem b2iReadsBytesInHostOrder : Obligations.B2iReadsBytesInHostOrder := by
  unfold Obligations.B2iReadsBytesInHostOrder
  intro w hw h hh j hj y hy b hb
  have hdvd : 8 ∣ w := (by decide : ∀ w ∈ [16, 32, 64, 128], 8 ∣ w) w hw
  exact ⟨fromLittle_getLsbD hy hb (by omega), b2i_big_getLsbD (by omega) hy hb⟩

/-- The length check of an integer operation, written out for the two values of K (R125, R133). -/
theorem ite_not_mem_intLengths (scaled : Bool) (n : Nat) (e r : Response) :
    (if n ∉ intLengths scaled then e else r) =
      if scaled = false ∧ n ∉ [1, 2, 4, 8] then e else if scaled = true ∧ n ∉ [1, 2, 4] then e else r := by
  cases scaled with
  | false => simp [intLengths]
  | true => simp [intLengths]

/-- The response of `SERI`: I2B fills the scratch buffer to exactly the length read back (R131, R33). -/
theorem seriResponse_eq (p : Params) (k : CodecConfig) (buf : Scratch) (signed scaled : Bool) (len : Nat) (v : Val) :
    seriResponse p k buf signed scaled len v =
      if scaled = false ∧ len ∉ [1, 2, 4, 8] then .error .unsupportedLength
      else if scaled = true ∧ len ∉ [1, 2, 4] then .error .unsupportedLength
      else if fits signed (16 * len) v = false then .error .rangeError
      else .ok (.words (b2w p.hostOrder k (i2b p.hostOrder (16 * len) (v.setWidth (16 * len))))) := by
  have hfull : (i2b p.hostOrder (16 * len) (v.setWidth (16 * len))).length = 2 * len := by rw [i2b_length]; omega
  rw [seriResponse, bufferToRegisters_eq p k buf hfull, ite_not_mem_intLengths]

/-- The response of `DESI`, which checks nothing but the number of registers (R132, R33). -/
theorem desiResponse_eq (p : Params) (k : CodecConfig) (buf : Scratch) (signed scaled : Bool) (w : List Word) :
    desiResponse p k buf signed scaled w =
      if scaled = false ∧ w.length ∉ [1, 2, 4, 8] then .error .unsupportedLength
      else if scaled = true ∧ w.length ∉ [1, 2, 4] then .error .unsupportedLength
      else .ok (.value (extend signed (16 * w.length) (b2i p.hostOrder (16 * w.length) (w2b p.hostOrder k w)))) := by
  rw [desiResponse, registersToBuffer_eq, ite_not_mem_intLengths]

/-- Settles O27: `SERI` answers with `seriResponse`, whose checks are R131's in order, and its row of R66 has the reserved field
HDR[9:8]. -/
theorem seriCommand : Obligations.SeriCommand := by
  unfold Obligations.SeriCommand
  exact fun s c _ hs =>
    ⟨fun signed scaled len => exec_eq_answer_of_response (i := .seri signed scaled len) rfl hs fun k buf =>
        seriResponse_eq s.params k buf signed scaled len c.val,
      step_of_opcode_reserved
        (r := ⟨0xF300, 0x6000, fun h => .seri (Header.signed h) (Header.scaled h) (Header.len h)⟩) 8 2
        (by simp [opcodeTable]) (by decide) (by decide) (by decide) hs⟩

/-- Settles O28: `DESI` answers with `desiResponse`, whose `extend` is the sign or the zero extension that S chooses (R132), and
its row of R66 has the reserved field HDR[9:0]. -/
theorem desiCommand : Obligations.DesiCommand := by
  unfold Obligations.DesiCommand
  exact fun s c _ hs =>
    ⟨fun signed scaled => exec_eq_answer_of_response (i := .desi signed scaled) rfl hs fun k buf =>
        desiResponse_eq s.params k buf signed scaled c.wseq,
      step_of_opcode_reserved (r := ⟨0xF3FF, 0x7000, fun h => .desi (Header.signed h) (Header.scaled h)⟩) 0 10
        (by simp [opcodeTable]) (by decide) (by decide) (by decide) hs⟩

end Sys2Proof.Machine
end

section
/-! SUPPORT. The float operations (44_float_reinterpret.md R154, R155): the check of the upper bits of VAL as a bound on VAL, and the
two commands, which move the pattern through the same bytes as the integer commands. -/

namespace Sys2Proof.Machine

/-- The bits of a vector from `w` up are zero exactly when the vector is below `2^w`. -/
theorem extractLsb'_from_eq_zero_iff {n : Nat} (w : Nat) (v : BitVec n) :
    v.extractLsb' w (n - w) = 0 ↔ v.toNat < 2 ^ w := by
  have hpow : 2 ^ n ≤ 2 ^ w * 2 ^ (n - w) := by
    rw [← Nat.pow_add]
    exact Nat.pow_le_pow_right (by decide) (by omega)
  have hquot : v.toNat / 2 ^ w < 2 ^ (n - w) := Nat.div_lt_of_lt_mul (v.isLt.trans_le hpow)
  calc v.extractLsb' w (n - w) = 0
    _ ↔ (v.toNat >>> w) % 2 ^ (n - w) = 0 := by rw [← BitVec.toNat_inj, BitVec.extractLsb'_toNat]; rfl
    _ ↔ v.toNat / 2 ^ w = 0 := by rw [Nat.shiftRight_eq_div_pow, Nat.mod_eq_of_lt hquot]
    _ ↔ v.toNat < 2 ^ w := Nat.div_eq_zero_iff_lt (Nat.two_pow_pos w)

/-- `VAL[127:w] = 0` says that VAL fits in `w` bits, for every width (R154). -/
theorem upperZero_iff (w : Nat) (v : Val) : upperZero w v = true ↔ v.toNat < 2 ^ w := by
  rw [upperZero, beq_iff_eq, extractLsb'_from_eq_zero_iff]

theorem upperZero_eq_false_iff (w : Nat) (v : Val) : upperZero w v = false ↔ 2 ^ w ≤ v.toNat := by
  rw [← Bool.not_eq_true, upperZero_iff, Nat.not_lt]

/-- The response of `SERF`: I2B fills the scratch buffer to exactly the length read back (R154, R33). -/
theorem serfResponse_eq (p : Params) (k : CodecConfig) (buf : Scratch) (len : Nat) (v : Val) :
    serfResponse p k buf len v =
      if len ∉ [2, 4] then .error .unsupportedLength
      else if 2 ^ (16 * len) ≤ v.toNat then .error .unsupportedType
      else .ok (.words (b2w p.hostOrder k (i2b p.hostOrder (16 * len) (v.setWidth (16 * len))))) := by
  have hfull : (i2b p.hostOrder (16 * len) (v.setWidth (16 * len))).length = 2 * len := by rw [i2b_length]; omega
  simp only [serfResponse, floatLengths, bufferToRegisters_eq p k buf hfull, upperZero_eq_false_iff]

/-- The response of `DESF`, which checks nothing but the number of registers (R155, R33). -/
theorem desfResponse_eq (p : Params) (k : CodecConfig) (buf : Scratch) (w : List Word) :
    desfResponse p k buf w =
      if w.length ∉ [2, 4] then .error .unsupportedLength
      else .ok (.value ((b2i p.hostOrder (16 * w.length) (w2b p.hostOrder k w)).setWidth 128)) := by
  rw [desfResponse, registersToBuffer_eq, floatLengths]

/-- Settles O29: `SERF` answers with `serfResponse`, whose checks are R154's in order, and its row of R66 has the reserved field
HDR[11:8]. -/
theorem serfCommand : Obligations.SerfCommand := by
  unfold Obligations.SerfCommand
  exact fun s c _ hs =>
    ⟨fun len => exec_eq_answer_of_response (i := .serf len) rfl hs fun k buf => serfResponse_eq s.params k buf len c.val,
      step_of_opcode_reserved (r := ⟨0xFF00, 0x8000, fun h => .serf (Header.len h)⟩) 8 4 (by simp [opcodeTable])
        (by decide) (by decide) (by decide) hs⟩

/-- Settles O30: `DESF` answers with `desfResponse`, whose one check is the number of registers (R155), and its row of R66 has the
reserved field HDR[11:0]. -/
theorem desfCommand : Obligations.DesfCommand := by
  unfold Obligations.DesfCommand
  exact fun s c _ hs =>
    ⟨exec_eq_answer_of_response (i := .desf) rfl hs fun k buf => desfResponse_eq s.params k buf c.wseq,
      step_of_opcode_reserved (r := ⟨0xFFFF, 0x9000, fun _ => .desf⟩) 0 12 (by simp [opcodeTable]) (by decide) (by decide)
        (by decide) hs⟩

end Sys2Proof.Machine
end

section
/-! SUPPORT. The error responses (60_exceptions.md R165 to R181): what a step that appends a response does, what an error leaves
unchanged, the codes the block drives, and the order of the checks as a walk along the list of R176. -/

namespace Sys2Proof.Machine

/-- A step that appends a response refused an illegal header, or ran `CFG`, which succeeds, or ran another operation in the
frame of the data commands. Only `CFG` changes more than the queue of commands and the list of responses (R177). -/
theorem step_appends {s t : State} {r : Response} (h : step s = .next t) (hr : t.responses = s.responses ++ [r]) :
    ∃ c rest, s.pending = c :: rest ∧
      ((decode c.hdr = none ∧ r = .error .unsupportedEncoding ∧ t = s.answer r) ∨
        ∃ i, decode c.hdr = some i ∧
          ((isCfg i = true ∧ r = .ok .nothing) ∨
            (isCfg i = false ∧ r = dataResponse s (operationResponse s.params i) c ∧ t = s.answer r))) := by
  obtain ⟨-, rfl⟩ | ⟨c, rest, hs, -, ⟨hd, rfl⟩ | ⟨i, hd, he⟩⟩ := step_next h
  · simp at hr
  · cases List.append_cancel_left hr
    exact ⟨c, rest, hs, .inl ⟨hd, rfl, rfl⟩⟩
  · refine ⟨c, rest, hs, .inr ⟨i, hd, ?_⟩⟩
    cases hi : isCfg i with
    | true =>
      obtain ⟨w, o, rfl⟩ := eq_cfg_of_isCfg hi
      obtain ⟨-, -, -, rfl⟩ := withCommand_next he
      cases List.append_cancel_left hr
      exact .inl ⟨rfl, rfl⟩
    | false =>
      rw [exec_eq_dataCommand hi, dataCommand_cons hs] at he
      cases he
      rw [State.answer_responses] at hr
      cases List.append_cancel_left hr
      exact .inr ⟨rfl, rfl, rfl⟩

/-- Settles O17: the frame of the data commands looks at CFG before it runs the operation's own checks (R175). -/
theorem dataCommandBeforeCfgAnswersNotConfigured : Obligations.DataCommandBeforeCfgAnswersNotConfigured := by
  unfold Obligations.DataCommandBeforeCfgAnswersNotConfigured
  intro s c rest i hs hc hk hd hi
  rw [step_of_decode_eq_some hs hc hd, exec_eq_dataCommand hi, dataCommand_cons hs, dataResponse_unconfigured hk,
    State.answer_eq, hs, List.tail_cons]

theorem ErrorKind.code_ne_zero (e : ErrorKind) : e.code ≠ 0 := by
  cases e <;> decide

/-- Settles O18: only `CFG` writes more than the two streams, and its response is no error (R177). -/
theorem failedCommandLeavesNoTrace : Obligations.FailedCommandLeavesNoTrace := by
  unfold Obligations.FailedCommandLeavesNoTrace
  intro s t e h hr
  refine ⟨?_, rfl, e.code_ne_zero⟩
  rw [← State.answer_eq]
  obtain ⟨c, rest, -, ⟨-, -, ht⟩ | ⟨i, -, ⟨-, hok⟩ | ⟨-, -, ht⟩⟩⟩ := step_appends h hr
  · exact ht
  · cases hok
  · exact ht

/-- The codes the block drives (R166). -/
def drivenCodes : List Status := [0, 1, 2, 3, 6, 8, 9]

theorem statusOf_mem_drivenCodes (r : Response) : statusOf r ∈ drivenCodes := by
  cases r with
  | ok v => exact List.mem_cons_self
  | error e => cases e <;> decide

/-- Settles O20: every driven code is below 10 and none of 4, 5 and 7 (R181). -/
theorem reservedStatusCodesAreNeverDriven : Obligations.ReservedStatusCodesAreNeverDriven := by
  unfold Obligations.ReservedStatusCodesAreNeverDriven
  intro r
  have hcodes : ∀ x ∈ drivenCodes, x ≠ 4 ∧ x ≠ 5 ∧ x ≠ 7 ∧ x < 10 := by decide
  obtain ⟨h4, h5, h7, hlt⟩ := hcodes _ (statusOf_mem_drivenCodes r)
  refine ⟨h4, h5, h7, ?_⟩
  rintro _ hc rfl
  exact BitVec.not_lt.mpr hc hlt

/-! ## The fixed order of the checks (R176) -/

/-- The order of R176. -/
def checkOrder : List ErrorKind :=
  [.unsupportedEncoding, .notConfigured, .unsupportedLength, .lengthMismatch, .unsupportedType, .rangeError]

theorem mem_checkOrder (e : ErrorKind) : e ∈ checkOrder := by
  cases e <;> decide

theorem checkOrder_pairwise_priority : checkOrder.Pairwise fun e e' => e.priority ≤ e'.priority := by
  decide

/-- The response is the first error of a list whose cause holds, and a success when there is none. -/
def ReportsFirst (cause : ErrorKind → Prop) : List ErrorKind → Response → Prop
  | [], r => ∃ v, r = .ok v
  | e :: es, r => (cause e ∧ r = .error e) ∨ (¬ cause e ∧ ReportsFirst cause es r)

section
variable {cause : ErrorKind → Prop} {e : ErrorKind} {es : List ErrorKind} {r : Response}

theorem ReportsFirst.skip (he : ¬ cause e) (h : ReportsFirst cause es r) : ReportsFirst cause (e :: es) r := .inr ⟨he, h⟩

/-- One check of an operation walks past one error of the list. -/
theorem ReportsFirst.check {b : Prop} [Decidable b] (hb : b ↔ cause e) (h : ReportsFirst cause es r) :
    ReportsFirst cause (e :: es) (if b then .error e else r) := by
  by_cases hc : b
  · rw [if_pos hc]; exact .inl ⟨hb.mp hc, rfl⟩
  · rw [if_neg hc]; exact h.skip (mt hb.mpr hc)

theorem ReportsFirst.congr {cause' : ErrorKind → Prop} (hc : ∀ e, cause' e ↔ cause e) (h : ReportsFirst cause es r) :
    ReportsFirst cause' es r := by
  rwa [show cause' = cause from funext fun e => propext (hc e)]

/-- In a list sorted by priority, the first error whose cause holds is the least one. -/
theorem ReportsFirst.error_least (h : ReportsFirst cause es (.error e))
    (hs : es.Pairwise fun e e' => e.priority ≤ e'.priority) :
    cause e ∧ ∀ e' ∈ es, cause e' → e.priority ≤ e'.priority := by
  induction es with
  | nil => obtain ⟨v, hv⟩ := h; cases hv
  | cons a es ih =>
    obtain ⟨ha, hs⟩ := List.pairwise_cons.mp hs
    obtain ⟨hc, he⟩ | ⟨hc, h⟩ := h
    · cases he
      exact ⟨hc, List.forall_mem_cons.mpr ⟨fun _ => le_rfl, fun e' he' _ => ha e' he'⟩⟩
    · obtain ⟨hce, hle⟩ := ih h hs
      exact ⟨hce, List.forall_mem_cons.mpr ⟨fun hca => absurd hca hc, hle⟩⟩

theorem ReportsFirst.ok_no_cause {v : Result} (h : ReportsFirst cause es (.ok v)) : ∀ e ∈ es, ¬ cause e := by
  induction es with
  | nil => simp
  | cons a es ih =>
    obtain ⟨-, hv⟩ | ⟨hc, h⟩ := h
    · cases hv
    · exact List.forall_mem_cons.mpr ⟨hc, ih h⟩

end

/-- The causes of a decoded instruction that does not lack its configuration (R169 to R172). -/
def operationCause (p : Params) (c : Command) : Instr → ErrorKind → Prop
  | i, .unsupportedLength => lengthUnsupported p c i
  | .b2w n, .lengthMismatch => c.bseq.length ≠ 2 * n
  | .serf n, .unsupportedType => upperZero (16 * n) c.val = false
  | .seri g _ n, .rangeError => fits g (16 * n) c.val = false
  | _, _ => False

theorem not_illegalHeader_of_decode {c : Command} {i : Instr} (hd : decode c.hdr = some i) : ¬ illegalHeader c.hdr := by
  simp [← decode_eq_none_iff_illegalHeader, hd]

/-- A legal header whose instruction is `CFG` or finds CFG configured leaves the operation's own causes (R168, R175). -/
theorem causeHolds_iff_operationCause {p : Params} {cfg : Option CodecConfig} {c : Command} {i : Instr}
    (hd : decode c.hdr = some i) (hk : ¬ (cfg = none ∧ isCfg i = false)) (e : ErrorKind) :
    causeHolds p cfg c e ↔ operationCause p c i e := by
  cases e with
  | unsupportedEncoding =>
    cases i <;> simp [causeHolds, operationCause, not_illegalHeader_of_decode hd]
  | notConfigured => cases i <;> simpa [causeHolds, operationCause, hd] using hk
  | unsupportedLength => simp [causeHolds, operationCause, hd]
  | lengthMismatch => cases i <;> simp [causeHolds, operationCause, hd]
  | unsupportedType => cases i <;> simp [causeHolds, operationCause, hd]
  | rangeError => cases i <;> simp [causeHolds, operationCause, hd]

/-- Each operation's own checks come in the order of R176. -/
theorem operationResponse_reportsFirst (p : Params) (i : Instr) (k : CodecConfig) (buf : Scratch) (c : Command) :
    ReportsFirst (operationCause p c i) checkOrder (operationResponse p i k buf c) := by
  unfold checkOrder
  cases i with
  | cfg w o => exact .skip id (.skip id (.skip id (.skip id (.skip id (.skip id ⟨_, rfl⟩)))))
  | bot => exact .skip id (.skip id (.skip id (.skip id (.skip id (.skip id ⟨_, rfl⟩)))))
  | wsw => exact .skip id (.skip id (.skip id (.skip id (.skip id (.skip id ⟨_, rfl⟩)))))
  | b2w n => exact .skip id (.skip id (.check Iff.rfl (.check Iff.rfl (.skip id (.skip id ⟨_, rfl⟩)))))
  | w2b => exact .skip id (.skip id (.check Iff.rfl (.skip id (.skip id (.skip id ⟨_, rfl⟩)))))
  | seri g scaled n => exact .skip id (.skip id (.check Iff.rfl (.skip id (.skip id (.check Iff.rfl ⟨_, rfl⟩)))))
  | desi g scaled => exact .skip id (.skip id (.check Iff.rfl (.skip id (.skip id (.skip id ⟨_, rfl⟩)))))
  | serf n => exact .skip id (.skip id (.check Iff.rfl (.skip id (.check Iff.rfl (.skip id ⟨_, rfl⟩)))))
  | desf => exact .skip id (.skip id (.check Iff.rfl (.skip id (.skip id (.skip id ⟨_, rfl⟩)))))

/-- A data command adds the check of CFG in the second place. -/
theorem dataResponse_reportsFirst {s : State} {c : Command} {i : Instr} (hd : decode c.hdr = some i) (hi : isCfg i = false) :
    ReportsFirst (causeHolds s.params s.cfg c) checkOrder (dataResponse s (operationResponse s.params i) c) := by
  cases hk : s.cfg with
  | none =>
    rw [dataResponse_unconfigured hk]
    exact .skip (not_illegalHeader_of_decode hd) (.inl ⟨⟨rfl, i, hd, hi⟩, rfl⟩)
  | some k =>
    rw [dataResponse_configured hk]
    exact (operationResponse_reportsFirst s.params i k _ c).congr (causeHolds_iff_operationCause hd (by simp))

/-- Every response a step appends is the first of R176 for the command at the head of the queue. -/
theorem step_reportsFirst {s t : State} {c : Command} {rest : List Command} {r : Response} (hs : s.pending = c :: rest)
    (h : step s = .next t) (hr : t.responses = s.responses ++ [r]) :
    ReportsFirst (causeHolds s.params s.cfg c) checkOrder r := by
  obtain ⟨c', rest', hs', hcase⟩ := step_appends h hr
  cases hs.symm.trans hs'
  obtain ⟨hd, rfl, -⟩ | ⟨i, hd, ⟨hi, rfl⟩ | ⟨hi, rfl, -⟩⟩ := hcase
  · exact .inl ⟨(decode_eq_none_iff_illegalHeader c.hdr).mp hd, rfl⟩
  · obtain ⟨w, o, rfl⟩ := eq_cfg_of_isCfg hi
    exact (operationResponse_reportsFirst s.params (.cfg w o) ⟨w, o⟩ [] c).congr
      (causeHolds_iff_operationCause hd (by simp [isCfg]))
  · exact dataResponse_reportsFirst hd hi

/-- Settles O21: the response is the first of `checkOrder`, which lists every error and is sorted by priority. -/
theorem errorsFollowFixedPriority : Obligations.ErrorsFollowFixedPriority := by
  unfold Obligations.ErrorsFollowFixedPriority
  intro s t c rest r hs h hr
  have hfirst := step_reportsFirst hs h hr
  refine ⟨?_, ?_⟩
  · rintro e rfl
    obtain ⟨hc, hle⟩ := hfirst.error_least checkOrder_pairwise_priority
    exact ⟨hc, fun e' => hle e' (mem_checkOrder e')⟩
  · rintro v rfl e
    exact hfirst.ok_no_cause e (mem_checkOrder e)

end Sys2Proof.Machine
end

section
/-! SUPPORT. What a success of a data operation says about its operands, and what a step answers (70_reset_and_hazards.md R200,
20_memory.md R55): one response, within the lanes of 10_state.md R30 and R31. -/

namespace Sys2Proof.Machine

/-- A check of 60_exceptions.md R176 is passed by a success. -/
theorem check_eq_ok_iff {b : Prop} [Decidable b] {e : ErrorKind} {r : Response} {v : Result} :
    (if b then .error e else r) = .ok v ↔ ¬ b ∧ r = .ok v := by
  by_cases hb : b
  · simp [hb]
  · simp [hb]

section
variable {p : Params} {k : CodecConfig} {buf : Scratch} {signed scaled : Bool} {len : Nat} {w : List Word} {h : List Byte}
  {v : Val} {r : Result}

theorem b2wResponse_eq_ok_iff : b2wResponse p k buf len h = .ok r ↔
    ¬ (len = 0 ∨ p.nmax < len) ∧ h.length = 2 * len ∧ .words (b2w p.hostOrder k h) = r := by
  rw [b2wResponse_eq, check_eq_ok_iff, check_eq_ok_iff, not_ne_iff, Except.ok.injEq]

theorem w2bResponse_eq_ok_iff : w2bResponse p k buf w = .ok r ↔ w.length ≠ 0 ∧ .bytes (w2b p.hostOrder k w) = r := by
  rw [w2bResponse_eq, check_eq_ok_iff, Except.ok.injEq]

theorem seriResponse_eq_ok_iff : seriResponse p k buf signed scaled len v = .ok r ↔
    len ∈ intLengths scaled ∧ fits signed (16 * len) v = true ∧
      .words (b2w p.hostOrder k (i2b p.hostOrder (16 * len) (v.setWidth (16 * len)))) = r := by
  have hfull : (i2b p.hostOrder (16 * len) (v.setWidth (16 * len))).length = 2 * len := by rw [i2b_length]; omega
  rw [seriResponse, bufferToRegisters_eq p k buf hfull, check_eq_ok_iff, check_eq_ok_iff, not_not, Bool.not_eq_false,
    Except.ok.injEq]

theorem desiResponse_eq_ok_iff (hw : w.length = len) : desiResponse p k buf signed scaled w = .ok r ↔
    len ∈ intLengths scaled ∧
      .value (extend signed (16 * len) (b2i p.hostOrder (16 * len) (w2b p.hostOrder k w))) = r := by
  subst hw
  rw [desiResponse, registersToBuffer_eq, check_eq_ok_iff, not_not, Except.ok.injEq]

theorem serfResponse_eq_ok_iff : serfResponse p k buf len v = .ok r ↔
    len ∈ floatLengths ∧ v.toNat < 2 ^ (16 * len) ∧
      .words (b2w p.hostOrder k (i2b p.hostOrder (16 * len) (v.setWidth (16 * len)))) = r := by
  rw [serfResponse_eq, check_eq_ok_iff, check_eq_ok_iff, not_not, Nat.not_le, Except.ok.injEq, floatLengths]

theorem desfResponse_eq_ok_iff (hw : w.length = len) : desfResponse p k buf w = .ok r ↔
    len ∈ floatLengths ∧ .value ((b2i p.hostOrder (16 * len) (w2b p.hostOrder k w)).setWidth 128) = r := by
  subst hw
  rw [desfResponse_eq, check_eq_ok_iff, not_not, Except.ok.injEq, floatLengths]

end

/-! ## The lanes -/

theorem Command.presentable_iff {p : Params} {c : Command} :
    c.presentable p = true ↔ c.bseq.length ≤ 2 * p.nmax ∧ c.wseq.length ≤ p.nmax := by
  rw [Command.presentable, Bool.and_eq_true, decide_eq_true_iff, decide_eq_true_iff]

theorem Result.fits_bytes_iff {p : Params} {b : List Byte} : (Result.bytes b).fits p = true ↔ b.length ≤ 2 * p.nmax :=
  decide_eq_true_iff

theorem Result.fits_words_iff {p : Params} {w : List Word} : (Result.words w).fits p = true ↔ w.length ≤ p.nmax :=
  decide_eq_true_iff

/-- The numbers of registers of the numeric operations are within the smallest capacity (00_scope.md R6). -/
theorem le_nmax_of_mem_intLengths {scaled : Bool} {n : Nat} (h : n ∈ intLengths scaled) (p : Params) : n ≤ p.nmax := by
  have h8 : n ≤ 8 := (by decide : ∀ scaled, ∀ n ∈ intLengths scaled, n ≤ 8) scaled n h
  simp only [Params.nmax]
  omega

theorem mem_intLengths_of_mem_floatLengths {n : Nat} (h : n ∈ floatLengths) : n ∈ intLengths false :=
  (by decide : ∀ n ∈ floatLengths, n ∈ intLengths false) n h

/-- The registers of `SERI` and `SERF` are as many as LEN. -/
theorem b2w_i2b_length (host : Order) (k : CodecConfig) (n : Nat) (x : BitVec (16 * n)) :
    (b2w host k (i2b host (16 * n) x)).length = n :=
  b2w_length_even host k n _ (by rw [i2b_length]; omega)

/-- A success on a command the lanes carry has a result the lanes carry. -/
theorem operationResponse_fits {p : Params} {i : Instr} {k : CodecConfig} {buf : Scratch} {c : Command}
    (hc : c.presentable p = true) {v : Result} (h : operationResponse p i k buf c = .ok v) : v.fits p = true := by
  obtain ⟨hb, hw⟩ := Command.presentable_iff.mp hc
  cases i with
  | cfg w o => cases h; rfl
  | bot => cases h; rwa [Result.fits_bytes_iff, bot_length]
  | wsw => cases h; rwa [Result.fits_words_iff, wsw_length]
  | b2w len =>
    obtain ⟨hlen, hh, rfl⟩ := b2wResponse_eq_ok_iff.mp h
    rw [Result.fits_words_iff, b2w_length_even _ _ _ _ hh]
    omega
  | w2b =>
    obtain ⟨-, rfl⟩ := w2bResponse_eq_ok_iff.mp h
    rw [Result.fits_bytes_iff, w2b_length]
    omega
  | seri signed scaled len =>
    obtain ⟨hlen, -, rfl⟩ := seriResponse_eq_ok_iff.mp h
    rw [Result.fits_words_iff, b2w_i2b_length]
    exact le_nmax_of_mem_intLengths hlen p
  | desi signed scaled => obtain ⟨-, rfl⟩ := (desiResponse_eq_ok_iff rfl).mp h; rfl
  | serf len =>
    obtain ⟨hlen, -, rfl⟩ := serfResponse_eq_ok_iff.mp h
    rw [Result.fits_words_iff, b2w_i2b_length]
    exact le_nmax_of_mem_intLengths (mem_intLengths_of_mem_floatLengths hlen) p
  | desf => obtain ⟨-, rfl⟩ := (desfResponse_eq_ok_iff rfl).mp h; rfl

/-! ## What every step answers -/

/-- The block took the next command and appended the response `r`; CFG may be new. -/
structure State.Answered (s t : State) (r : Response) : Prop where
  params : t.params = s.params
  pending : t.pending = s.pending.tail
  responses : t.responses = s.responses ++ [r]

theorem State.answered_answer (s : State) (r : Response) : s.Answered (s.answer r) r :=
  ⟨s.answer_params r, s.answer_pending r, s.answer_responses r⟩

/-- Every operation answers the pending command. -/
theorem exec_answers (i : Instr) {s : State} {c : Command} {rest : List Command} (hs : s.pending = c :: rest) :
    ∃ t r, exec i s = .next t ∧ s.Answered t r := by
  cases hi : isCfg i with
  | true =>
    obtain ⟨w, o, rfl⟩ := eq_cfg_of_isCfg hi
    exact ⟨_, _, withCommand_cons hs _, rfl, rfl, rfl⟩
  | false => exact ⟨_, _, exec_eq_answer_underCfg hi hs, s.answered_answer _⟩

/-- Every command the lanes carry is answered by the step. -/
theorem step_answers {s : State} {c : Command} {rest : List Command} (hs : s.pending = c :: rest)
    (hc : c.presentable s.params = true) : ∃ t r, step s = .next t ∧ s.Answered t r := by
  cases hd : decode c.hdr with
  | none => exact ⟨_, _, step_of_decode_eq_none hs hc hd, s.answered_answer (.error .unsupportedEncoding)⟩
  | some i => rw [step_of_decode_eq_some hs hc hd]; exact exec_answers i hs

theorem step_idle {s : State} (hs : s.pending = []) : step s = .next s := by
  simp only [step, presented_nil hs]

theorem step_tooLong {s : State} {c : Command} {rest : List Command} (hs : s.pending = c :: rest)
    (hc : c.presentable s.params = false) : step s = .refused .notPresentable := by
  simp only [step, presented_tooLong hs hc]

/-- A step that answers a next state was idle, or answered a presentable command. -/
theorem step_next_answered {s t : State} (h : step s = .next t) :
    t = s ∨ ∃ c rest r, s.pending = c :: rest ∧ c.presentable s.params = true ∧ s.Answered t r := by
  obtain ⟨-, ht⟩ | ⟨c, rest, hs, hc, -⟩ := step_next h
  · exact .inl ht
  · obtain ⟨u, r, hu, hr⟩ := step_answers hs hc
    cases h.symm.trans hu
    exact .inr ⟨c, rest, r, hs, hc, hr⟩

/-- The response a step appends to a presentable command's is one the lanes carry. -/
theorem step_appends_fitting {s t : State} {c : Command} {rest : List Command} {r : Response} (hs : s.pending = c :: rest)
    (hc : c.presentable s.params = true) (h : step s = .next t) (hr : t.responses = s.responses ++ [r]) :
    responseFits s.params r = true := by
  obtain ⟨c', rest', hs', hcase⟩ := step_appends h hr
  cases hs.symm.trans hs'
  obtain ⟨-, rfl, -⟩ | ⟨i, -, ⟨-, rfl⟩ | ⟨-, hresp, -⟩⟩ := hcase
  · rfl
  · rfl
  · cases r with
    | error e => rfl
    | ok v =>
      obtain ⟨k, -, hv⟩ := dataResponse_ok hresp.symm
      exact operationResponse_fits hc hv

theorem State.lanesFit_iff {s : State} : s.lanesFit = true ↔
    (∀ c ∈ s.pending, c.presentable s.params = true) ∧ ∀ r ∈ s.responses, responseFits s.params r = true := by
  rw [State.lanesFit, Bool.and_eq_true, List.all_eq_true, List.all_eq_true]

/-- Settles O3: a step takes a command away and appends a response that fits, as `operationResponse_fits` says of each
operation. -/
theorem stepKeepsLaneBounds : Obligations.StepKeepsLaneBounds := by
  unfold Obligations.StepKeepsLaneBounds
  intro s t hfit h
  obtain rfl | ⟨c, rest, r, hs, hc, ht⟩ := step_next_answered h
  · exact hfit
  · obtain ⟨hpending, hresponses⟩ := State.lanesFit_iff.mp hfit
    rw [State.lanesFit_iff, ht.params, ht.pending, ht.responses, List.forall_mem_append, List.forall_mem_singleton]
    exact ⟨fun d hd => hpending d (List.mem_of_mem_tail hd), hresponses, step_appends_fitting hs hc h ht.responses⟩

/-- Settles O5: an answer keeps the parameters. -/
theorem instanceParametersNeverChange : Obligations.InstanceParametersNeverChange := by
  unfold Obligations.InstanceParametersNeverChange
  intro s t h
  obtain rfl | ⟨c, rest, r, -, -, ht⟩ := step_next_answered h
  · rfl
  · exact ht.params

/-- Settles O7: `step_answers` with the queue written out. -/
theorem everyCommandIsAnsweredOnce : Obligations.EveryCommandIsAnsweredOnce := by
  unfold Obligations.EveryCommandIsAnsweredOnce
  intro s c rest hs hc
  obtain ⟨t, r, h, ht⟩ := step_answers hs hc
  exact ⟨t, r, h, by rw [ht.pending, hs, List.tail_cons], ht.responses⟩

/-- Settles O8: an idle step and a presentable command answer a next state, and a command no lane carries is refused. -/
theorem stepStopsOnlyOnUnpresentableCommand : Obligations.StepStopsOnlyOnUnpresentableCommand := by
  unfold Obligations.StepStopsOnlyOnUnpresentableCommand
  intro s
  cases hs : s.pending with
  | nil => simp [step_idle hs]
  | cons c rest =>
    cases hc : c.presentable s.params with
    | true =>
      obtain ⟨t, r, h, -⟩ := step_answers hs hc
      simp [h, hc]
    | false =>
      rw [step_tooLong hs hc]
      refine ⟨nofun, fun q => ⟨?_, ?_⟩⟩
      · rintro ⟨⟩
        exact ⟨rfl, c, rest, rfl, hc⟩
      · rintro ⟨rfl, -⟩
        rfl

/-- Settles O9: with an empty queue the step finds no command. -/
theorem idleBlockKeepsItsState : Obligations.IdleBlockKeepsItsState := by
  unfold Obligations.IdleBlockKeepsItsState
  exact fun _ => step_idle

/-- Settles O6: the step of a presentable command whose header decodes. -/
theorem stepRunsDecodedInstruction : Obligations.StepRunsDecodedInstruction := by
  unfold Obligations.StepRunsDecodedInstruction
  exact fun _ _ _ _ hs hc hd => step_of_decode_eq_some hs hc hd

/-- Settles O1: the fields of the reset state, each by its own lemma. -/
theorem resetLeavesBlockUnconfigured : Obligations.ResetLeavesBlockUnconfigured := by
  unfold Obligations.ResetLeavesBlockUnconfigured
  exact ⟨congrArg Option.isSome State.reset_cfg, State.reset_cfg, State.reset_pending, State.reset_responses,
    State.reset_params⟩

/-- Settles O2: the queues are empty at reset. -/
theorem laneBoundsHoldAtReset : Obligations.LaneBoundsHoldAtReset := by
  unfold Obligations.LaneBoundsHoldAtReset
  simp [State.lanesFit_iff]

/-- A command with nothing on its data lanes is presentable, whatever the capacity is. -/
theorem Command.bare_presentable (h : Header) (p : Params) : (Command.bare h).presentable p = true := by
  simp [Command.presentable_iff, Command.bare]

/-- Settles O10: the table's word is its own header, presented with empty lanes. -/
theorem presentedTableWordRuns : Obligations.PresentedTableWordRuns := by
  unfold Obligations.PresentedTableWordRuns
  intro s w i hw hd
  have hmod : w % 2 ^ 16 < 2 ^ 16 := Nat.mod_lt _ (by decide)
  simp only [decodeTableWord, if_pos hmod] at hd
  exact step_of_decode_eq_some (State.present_pending s _) (Command.bare_presentable _ _) hd

/-- Settles O19: the code of each error. -/
theorem statusCodesFollowTable : Obligations.StatusCodesFollowTable := by
  unfold Obligations.StatusCodesFollowTable
  exact ⟨fun _ => rfl, rfl, rfl, rfl, rfl, rfl, rfl⟩

end Sys2Proof.Machine
end

section
/-! SUPPORT. Encoding and decoding (30_encoding.md R61, R66): a legal header spells exactly one row, and the formats and the fields of
R62 are inverse to each other. -/

namespace Sys2Proof

open Laws.EncodedHeaderIsLegal (formatL_plain_spells formatL_seri_spells)

/-- Every mask of R66 covers the opcode. -/
theorem mask_covers_opcode : ∀ r ∈ opcodeTable, r.mask &&& 0xF000 = 0xF000 := by
  simp [opcodeTable]

/-- A header that spells a row decodes to the row's operation. -/
theorem decode_of_spells {r : Row} (hr : r ∈ opcodeTable) {h : Header} (hs : r.spells h = true) :
    decode h = some (r.build h) := by
  rw [decode_of_opcode hr (r.opcode_of_spells (mask_covers_opcode r hr) hs), if_pos hs]

/-- Settles O11: each of the nine equations says that the header spells a row of the table. -/
theorem decodeFollowsOpcodeTable : Obligations.DecodeFollowsOpcodeTable := by
  unfold Obligations.DecodeFollowsOpcodeTable
  intro h
  have hrows : ∀ r ∈ opcodeTable, h &&& r.mask = r.spelling → decode h = some (r.build h) :=
    fun r hr hm => decode_of_spells hr (beq_iff_eq.mpr hm)
  simp only [opcodeTable, List.forall_mem_cons, List.not_mem_nil, false_imp_iff, implies_true, and_true] at hrows
  exact hrows

/-- Settles O12: two rows that one header spells have its opcode, and the opcodes of R66 are distinct. -/
theorem opcodeRowsAreDisjoint : Obligations.OpcodeRowsAreDisjoint := by
  unfold Obligations.OpcodeRowsAreDisjoint
  intro r hr q hq h hrs hqs
  have hdistinct : ∀ r ∈ opcodeTable, ∀ q ∈ opcodeTable, r.opcode = q.opcode → r.spelling = q.spelling := by decide
  exact hdistinct r hr q hq
    ((r.opcode_of_spells (mask_covers_opcode r hr) hrs).symm.trans (q.opcode_of_spells (mask_covers_opcode q hq) hqs))

/-- Settles O16: nine closed headers. -/
theorem headersWrittenOutDecode : Obligations.HeadersWrittenOutDecode := by
  unfold Obligations.HeadersWrittenOutDecode
  decide

/-! ## The fields of the formats -/

@[simp] theorem Order.toBit_ofBit (b : Bool) : (Order.ofBit b).toBit = b := by cases b <;> rfl

section
variable (opc : BitVec 4) (signed scaled : Bool) (len : Nat)

@[simp] theorem formatL_signed : Header.signed (formatL opc signed scaled len) = signed := by
  simp only [Header.signed, formatL, BitVec.getLsbD_append]
  simp

@[simp] theorem formatL_scaled : Header.scaled (formatL opc signed scaled len) = scaled := by
  simp only [Header.scaled, formatL, BitVec.getLsbD_append]
  simp

theorem formatL_len {len : Nat} (hlen : len ≤ 255) : Header.len (formatL opc signed scaled len) = len := by
  have hfield : (formatL opc signed scaled len).extractLsb' 0 8 = BitVec.ofNat 8 len := BitVec.extractLsb'_append_eq_right
  rw [Header.len, hfield, BitVec.toNat_ofNat, Nat.mod_eq_of_lt (by omega)]

end

theorem ofBool_getLsbD (h : Header) (i : Nat) : BitVec.ofBool (h.getLsbD i) = h.extractLsb' i 1 :=
  BitVec.eq_of_getLsbD_eq fun j hj => by simp [show j = 0 by omega]

/-- A header is format C of its fields when HDR[11:2] is zero. -/
theorem formatC_of_fields {h : Header} {opc : BitVec 4} (ho : h.extractLsb' 12 4 = opc) (hz : h.extractLsb' 2 10 = 0) :
    formatC opc (h.getLsbD 1) (Order.ofBit (h.getLsbD 0)) = h := by
  have hz' : 0#10 = h.extractLsb' 2 10 := hz.symm
  simp only [formatC, ← ho, Order.toBit_ofBit, ofBool_getLsbD, hz', BitVec.extractLsb'_append_extractLsb'_eq_extractLsb']
  exact BitVec.extractLsb'_eq_self

/-- A header is format L of its fields when HDR[9:8] is zero. -/
theorem formatL_of_fields {h : Header} {opc : BitVec 4} (ho : h.extractLsb' 12 4 = opc) (hz : h.extractLsb' 8 2 = 0) :
    formatL opc (Header.signed h) (Header.scaled h) (Header.len h) = h := by
  have hz' : 0#2 = h.extractLsb' 8 2 := hz.symm
  simp only [formatL, ← ho, Header.signed, Header.scaled, Header.len, ofBool_getLsbD, BitVec.ofNat_toNat, BitVec.setWidth_eq, hz',
    BitVec.extractLsb'_append_extractLsb'_eq_extractLsb']
  exact BitVec.extractLsb'_eq_self

/-- A header is format N of its fields when HDR[9:0] is zero. -/
theorem formatN_of_fields {h : Header} {opc : BitVec 4} (ho : h.extractLsb' 12 4 = opc) (hz : h.extractLsb' 0 10 = 0) :
    formatN opc (Header.signed h) (Header.scaled h) = h := by
  have hz' : 0#10 = h.extractLsb' 0 10 := hz.symm
  simp only [formatN, ← ho, Header.signed, Header.scaled, ofBool_getLsbD, hz',
    BitVec.extractLsb'_append_extractLsb'_eq_extractLsb']
  exact BitVec.extractLsb'_eq_self

/-- A header is format L of its LEN, with S = K = 0, when HDR[11:8] is zero. -/
theorem formatL_plain_of_fields {h : Header} {opc : BitVec 4} (ho : h.extractLsb' 12 4 = opc) (hz : h.extractLsb' 8 4 = 0) :
    formatL opc false false (Header.len h) = h := by
  have hsigned : Header.signed h = false := by simpa [Header.signed] using congrArg (BitVec.getLsbD · 3) hz
  have hscaled : Header.scaled h = false := by simpa [Header.scaled] using congrArg (BitVec.getLsbD · 2) hz
  have hreserved : h.extractLsb' 8 2 = 0 := by
    refine BitVec.eq_of_getLsbD_eq fun i hi => ?_
    simpa [hi, show i < 4 by omega] using congrArg (BitVec.getLsbD · i) hz
  have hfields := formatL_of_fields ho hreserved
  rwa [hsigned, hscaled] at hfields

/-! ## The round trips -/

/-- Settles O14: the header of an instruction spells the instruction's row, and the row reads back the fields the format wrote;
LEN is the one field with more than two values. -/
theorem decodeOfEncodeIsTheInstruction : Obligations.DecodeOfEncodeIsTheInstruction := by
  unfold Obligations.DecodeOfEncodeIsTheInstruction
  intro i hi
  cases i with
  | cfg w o => cases w <;> cases o <;> decide
  | bot => decide
  | wsw => decide
  | b2w n =>
    rw [encode, decode_of_spells (r := ⟨0xFF00, 0x4000, fun h => .b2w (Header.len h)⟩) (by simp [opcodeTable])
      (beq_iff_eq.mpr (formatL_plain_spells n).1)]
    simp only [formatL_len _ _ _ (of_decide_eq_true hi)]
  | w2b => decide
  | seri g k n =>
    rw [encode, decode_of_spells (r := ⟨0xF300, 0x6000, fun h => .seri (Header.signed h) (Header.scaled h) (Header.len h)⟩)
      (by simp [opcodeTable]) (beq_iff_eq.mpr (formatL_seri_spells g k n))]
    simp only [formatL_signed, formatL_scaled, formatL_len _ _ _ (of_decide_eq_true hi)]
  | desi g k => cases g <;> cases k <;> decide
  | serf n =>
    rw [encode, decode_of_spells (r := ⟨0xFF00, 0x8000, fun h => .serf (Header.len h)⟩) (by simp [opcodeTable])
      (beq_iff_eq.mpr (formatL_plain_spells n).2)]
    simp only [formatL_len _ _ _ (of_decide_eq_true hi)]
  | desf => decide

theorem decodeRows_eq_some {rs : List Row} {h : Header} {i : Instr} (hd : decodeRows rs h = some i) :
    ∃ r ∈ rs, r.spells h = true ∧ r.build h = i := by
  induction rs with
  | nil => cases hd
  | cons r rs ih =>
    rw [decodeRows_cons] at hd
    split at hd
    next hs => exact ⟨r, List.mem_cons_self, hs, Option.some.inj hd⟩
    next =>
      obtain ⟨q, hq, hspec⟩ := ih hd
      exact ⟨q, List.mem_cons_of_mem r hq, hspec⟩

/-- The LEN of every header is in range (R62). -/
theorem header_len_le (h : Header) : Header.len h ≤ 255 := Nat.le_of_lt_succ (h.extractLsb' 0 8).isLt

/-- A row that leaves no bit free is spelled by its match alone. -/
theorem eq_spelling_of_spells {r : Row} {h : Header} (hm : r.mask = BitVec.allOnes 16) (hs : r.spells h = true) :
    h = r.spelling := by
  rw [← beq_iff_eq.mp hs, hm, BitVec.and_allOnes]

/-- A row whose mask is HDR[15:12] and the reserved field of `n` bits at `lo` says that HDR[15:12] is its opcode and the reserved
field is zero. -/
theorem Row.fields_of_spells {r : Row} (hr : r ∈ opcodeTable) {h : Header} (hs : r.spells h = true) (lo n : Nat)
    (hm : ∀ i < 16, r.mask.getLsbD i = decide (12 ≤ i ∨ lo ≤ i ∧ i < lo + n)) (hz : ∀ i < 12, r.spelling.getLsbD i = false)
    (hn : lo + n ≤ 12) : h.extractLsb' 12 4 = r.opcode ∧ h.extractLsb' lo n = 0 := by
  have ho := r.opcode_of_spells (mask_covers_opcode r hr) hs
  exact ⟨ho, (Row.spells_iff_reserved_eq_zero hm hz hn ho).mp hs⟩

/-- The operation a row builds from a header that spells it is well-formed, and its encoding is that header. -/
theorem encode_build_of_spells {r : Row} (hr : r ∈ opcodeTable) {h : Header} (hs : r.spells h = true) :
    (r.build h).wellFormed = true ∧ encode (r.build h) = h := by
  have hlen : decide (Header.len h ≤ 255) = true := decide_eq_true (header_len_le h)
  have hfixed (hm : r.mask = BitVec.allOnes 16) : h = r.spelling := eq_spelling_of_spells hm hs
  have hfields := Row.fields_of_spells hr hs
  simp only [opcodeTable, List.mem_cons, List.not_mem_nil, or_false] at hr
  obtain rfl | rfl | rfl | rfl | rfl | rfl | rfl | rfl | rfl := hr
  · -- `CFG`
    obtain ⟨ho, hz⟩ := hfields 2 10 (by decide) (by decide) (by decide)
    exact ⟨rfl, formatC_of_fields ho hz⟩
  · -- `BOT`
    obtain rfl := hfixed rfl
    decide
  · -- `WSW`
    obtain rfl := hfixed rfl
    decide
  · -- `B2W`
    obtain ⟨ho, hz⟩ := hfields 8 4 (by decide) (by decide) (by decide)
    exact ⟨hlen, formatL_plain_of_fields ho hz⟩
  · -- `W2B`
    obtain rfl := hfixed rfl
    decide
  · -- `SERI`
    obtain ⟨ho, hz⟩ := hfields 8 2 (by decide) (by decide) (by decide)
    exact ⟨hlen, formatL_of_fields ho hz⟩
  · -- `DESI`
    obtain ⟨ho, hz⟩ := hfields 0 10 (by decide) (by decide) (by decide)
    exact ⟨rfl, formatN_of_fields ho hz⟩
  · -- `SERF`
    obtain ⟨ho, hz⟩ := hfields 8 4 (by decide) (by decide) (by decide)
    exact ⟨hlen, formatL_plain_of_fields ho hz⟩
  · -- `DESF`
    obtain rfl := hfixed rfl
    decide

/-- Settles O15: a header that decodes spells a row of the table, whose operation encodes to it. -/
theorem encodeOfDecodeIsTheHeader : Obligations.EncodeOfDecodeIsTheHeader := by
  unfold Obligations.EncodeOfDecodeIsTheHeader
  intro h i hd
  obtain ⟨r, hr, hs, rfl⟩ := decodeRows_eq_some hd
  exact encode_build_of_spells hr hs

end Sys2Proof
end

section
/-! SUPPORT. What the response of a command other than `CFG` depends on: not the scratch buffer's starting content (10_state.md R33)
and not the commands before it (20_memory.md R56). -/

namespace Sys2Proof.Machine

/-- Settles O33: each pipeline operation fills the part of the buffer it reads, so its response is an expression in which no
buffer stands. -/
theorem scratchContentIsNeverRead : Obligations.ScratchContentIsNeverRead := by
  unfold Obligations.ScratchContentIsNeverRead
  refine fun p k b b' => ⟨fun n h => ?_, fun w => ?_, fun g sc n v => ?_, fun g sc w => ?_, fun n v => ?_, fun w => ?_⟩
  · rw [b2wResponse_eq, b2wResponse_eq]
  · rw [w2bResponse_eq, w2bResponse_eq]
  · rw [seriResponse_eq, seriResponse_eq]
  · rw [desiResponse_eq, desiResponse_eq]
  · rw [serfResponse_eq, serfResponse_eq]
  · rw [desfResponse_eq, desfResponse_eq]

/-- The response of the step to a command whose header does not spell `CFG`. -/
def commandResponse (s : State) (c : Command) : Response :=
  match decode c.hdr with
  | none => .error .unsupportedEncoding
  | some i => dataResponse s (operationResponse s.params i) c

theorem commandResponse_congr {s s' : State} (hp : s'.params = s.params) (hk : s'.cfg = s.cfg) (c : Command) :
    commandResponse s' c = commandResponse s c := by
  unfold commandResponse
  cases decode c.hdr with
  | none => rfl
  | some i => simp only [hp, dataResponse_congr hp hk]

/-- A command whose header does not spell `CFG` changes nothing but the two streams. -/
theorem step_data_command {s t : State} {c : Command} {rest : List Command} (hs : s.pending = c :: rest)
    (hc : c.hdr &&& 0xFFFC ≠ 0x1000) (h : step s = .next t) : t = s.answer (commandResponse s c) := by
  obtain ⟨hs', -⟩ | ⟨c', rest', hs', -, hcase⟩ := step_next h
  · cases hs.symm.trans hs'
  cases hs.symm.trans hs'
  obtain ⟨hd, rfl⟩ | ⟨i, hd, he⟩ := hcase
  · simp only [commandResponse, hd, State.answer_error]
  · have hi : isCfg i = false := by
      rw [← Bool.not_eq_true]
      intro hi
      obtain ⟨w, o, rfl⟩ := eq_cfg_of_isCfg hi
      exact hc (decode_eq_cfg hd).1
    rw [exec_eq_dataCommand hi, dataCommand_cons hs] at he
    cases he
    simp only [commandResponse, hd]

/-- Two such commands in turn: the second is answered as if it were the first. -/
theorem two_data_commands {s t u : State} {c d : Command} {rest : List Command} (hs : s.pending = c :: d :: rest)
    (hc : c.hdr &&& 0xFFFC ≠ 0x1000) (hd : d.hdr &&& 0xFFFC ≠ 0x1000) (ht : step s = .next t) (hu : step t = .next u) :
    u.cfg = s.cfg ∧ u.responses = s.responses ++ [commandResponse s c, commandResponse s d] := by
  obtain rfl := step_data_command hs hc ht
  have hs' : (s.answer (commandResponse s c)).pending = d :: rest := by rw [State.answer_pending, hs, List.tail_cons]
  obtain rfl := step_data_command hs' hd hu
  simp [commandResponse_congr (s.answer_params _) (s.answer_cfg _)]

/-- Settles O34: both orders give each command the response it has in the starting state. -/
theorem dataCommandsCommute : Obligations.DataCommandsCommute := by
  unfold Obligations.DataCommandsCommute
  intro s t u t' u' c d rest hc hd hs ht hu ht' hu'
  obtain ⟨hcfg, hresponses⟩ := two_data_commands hs hc hd ht hu
  obtain ⟨hcfg', hresponses'⟩ := two_data_commands rfl hd hc ht' hu'
  exact ⟨hcfg, hcfg', commandResponse s c, commandResponse s d, hresponses, hresponses'⟩

end Sys2Proof.Machine
end

section
/-! SUPPORT. The laws of the units (20_memory.md R42, 41_byte_order_mux.md R97, 42_word_swapper.md R108, R112, R114, R115): `bot` and
`wsw` are involutions, `unpack` and `pack` are inverse on even lengths, and a byte sequence of even length is read as `pack` of its
words. -/

namespace Sys2Proof

/-- There are two byte orders (00_scope.md R7). -/
theorem Order.eq_of_ne_of_ne : ∀ {host a b : Order}, a ≠ host → b ≠ host → a = b
  | _, .big, .big, _, _ => rfl
  | _, .little, .little, _, _ => rfl
  | .big, .big, .little, ha, _ => absurd rfl ha
  | .big, .little, .big, _, hb => absurd rfl hb
  | .little, .big, .little, _, hb => absurd rfl hb
  | .little, .little, .big, ha, _ => absurd rfl ha

end Sys2Proof

namespace Sys2Proof.Machine

theorem bot_comm (a b : Order) (l : List Byte) : bot a b l = bot b a l := by
  simp only [bot, ne_comm]

/-- The multiplexer sees the two orders through their difference alone, so a second pass leaves the difference of the two. -/
theorem bot_bot (host a b : Order) (l : List Byte) : bot host a (bot host b l) = bot a b l := by
  by_cases ha : a = host
  · rw [ha, bot_same]
  · by_cases hb : b = host
    · rw [hb, bot_same, bot_comm]
    · rw [bot_differ ha, bot_differ hb, List.reverse_reverse, Order.eq_of_ne_of_ne ha hb, bot_same]

@[simp] theorem bot_bot_same (host order : Order) (b : List Byte) : bot host order (bot host order b) = b := by
  rw [bot_bot, bot_same]

/-- Settles O36: the first two laws hold for every order, and of two orders exactly one is the host's. -/
theorem botLaws : Obligations.BotLaws := by
  unfold Obligations.BotLaws
  refine fun host order b => ⟨bot_length host order b, bot_bot_same host order b, bot_same host b, ?_⟩
  cases host with
  | big => rw [bot_same, bot_differ (by decide), List.reverse_reverse]
  | little => rw [bot_same, bot_differ (by decide)]

@[simp] theorem wsw_wsw (sw : Bool) (w : List Word) : wsw sw (wsw sw w) = w := by cases sw <;> simp

@[simp] theorem wordOf_high_low (x : Word) : wordOf (wordHigh x) (wordLow x) = x :=
  (BitVec.extractLsb'_append_extractLsb'_eq_extractLsb' (by decide)).trans BitVec.extractLsb'_eq_self

@[simp] theorem unpack_pack (w : List Word) : unpack (pack w) = w := by
  induction w with
  | nil => rfl
  | cons x xs ih => rw [pack_cons, unpack_pair, wordOf_high_low, ih]

/-- Every byte sequence of even length is the byte form of a word sequence of half its length. -/
theorem exists_pack_eq {n : Nat} {b : List Byte} (hb : b.length = 2 * n) : ∃ w, pack w = b ∧ w.length = n :=
  ⟨unpack b, pack_unpack_even n b hb, unpack_length_even n b hb⟩

/-- Word `i` of UNPACK is the pair of bytes `2i` and `2i+1` (R42). -/
theorem unpack_getElem? {n : Nat} {b : List Byte} (hb : b.length = 2 * n) {i : Nat} {hi lo : Byte}
    (hhi : b[2 * i]? = some hi) (hlo : b[2 * i + 1]? = some lo) : (unpack b)[i]? = some (wordOf hi lo) := by
  obtain ⟨w, rfl, -⟩ := exists_pack_eq hb
  rw [pack_getElem?_two_mul] at hhi
  rw [pack_getElem?_two_mul_add_one] at hlo
  rw [unpack_pack]
  cases hw : w[i]? with
  | none => rw [hw] at hhi; cases hhi
  | some x =>
    rw [hw] at hhi hlo
    cases hhi
    cases hlo
    rw [wordOf_high_low]

/-- Settles O38: the two inverse laws, and the pairing of bytes. -/
theorem unpackInvertsPack : Obligations.UnpackInvertsPack := by
  unfold Obligations.UnpackInvertsPack
  exact ⟨unpack_pack, fun n b hb => ⟨pack_unpack_even n b hb, unpack_length_even n b hb, fun _ _ _ => unpack_getElem? hb⟩⟩

/-! ## The word swap and the byte reversal -/

/-- The word with its two bytes exchanged (on the byte form, `XB` of R108). -/
def exchangeBytes (x : Word) : Word := wordOf (wordLow x) (wordHigh x)

/-- Reversing all bytes reverses the words and exchanges the bytes of each. -/
theorem reverse_pack (w : List Word) : (pack w).reverse = pack (w.map exchangeBytes).reverse := by
  induction w with
  | nil => rfl
  | cons x xs ih =>
    simp [ih, pack_append, exchangeBytes]

theorem wsw_eq_self_of_length_le_one {w : List Word} (hw : w.length ≤ 1) (sw : Bool) : wsw sw w = w := by
  match w, hw with
  | [], _ => cases sw <;> rfl
  | [x], _ => cases sw <;> rfl

theorem wswb_true_pack_reverse (w : List Word) : wswb true (pack w).reverse = pack (w.map exchangeBytes) := by
  rw [reverse_pack, wswb_pack, wsw_true, List.reverse_reverse]

theorem reverse_wswb_true_pack (w : List Word) : (wswb true (pack w)).reverse = pack (w.map exchangeBytes) := by
  rw [wswb_pack, wsw_true, reverse_pack, List.map_reverse, List.reverse_reverse]

/-- The word swap on the byte form commutes with the byte-order transform, for every pair of selectors. -/
theorem wswb_bot_pack (sw : Bool) (host order : Order) (w : List Word) :
    wswb sw (bot host order (pack w)) = bot host order (wswb sw (pack w)) := by
  by_cases ho : order = host
  · subst ho
    rw [bot_same, bot_same]
  · rw [bot_differ ho, bot_differ ho]
    cases sw with
    | false => rfl
    | true => rw [wswb_true_pack_reverse, reverse_wswb_true_pack]

/-- Byte `k` of group `i` after both reversals is the other byte of the group. -/
theorem pack_map_exchangeBytes_getElem? (w : List Word) (i : Nat) {k : Nat} (hk : k < 2) :
    (pack (w.map exchangeBytes))[2 * i + k]? = (pack w)[2 * i + 1 - k]? := by
  match k, hk with
  | 0, _ =>
    rw [Nat.add_zero, Nat.sub_zero, pack_getElem?_two_mul, pack_getElem?_two_mul_add_one, List.getElem?_map, Option.map_map]
    exact congrArg (Option.map · _) (funext fun x => wordHigh_wordOf _ _)
  | 1, _ =>
    rw [Nat.add_sub_cancel, pack_getElem?_two_mul, pack_getElem?_two_mul_add_one, List.getElem?_map, Option.map_map]
    exact congrArg (Option.map · _) (funext fun x => wordLow_wordOf _ _)

/-- Settles O41: on the byte form of `n` words both compositions of the swap and the byte reversal exchange the bytes of each
word. -/
theorem wordSwapLaws : Obligations.WordSwapLaws := by
  unfold Obligations.WordSwapLaws
  refine ⟨fun sw w => ⟨wsw_length sw w, wsw_wsw sw w, fun hw => wsw_eq_self_of_length_le_one hw sw⟩, fun n b hb => ?_⟩
  obtain ⟨w, rfl, -⟩ := exists_pack_eq hb
  refine ⟨fun sw => by rw [wswb_pack, unpack_pack], ?_, fun i k _ hk => ?_⟩
  · rw [reverse_wswb_true_pack, wswb_true_pack_reverse]
  · rw [reverse_wswb_true_pack, pack_map_exchangeBytes_getElem? w i hk]

/-! ## The composites -/

/-- Settles O42: both forms differ by moving the word swap across `pack` or `unpack` and across the byte-order transform. -/
theorem compositeFormsAgree : Obligations.CompositeFormsAgree := by
  unfold Obligations.CompositeFormsAgree
  refine fun host k => ⟨fun w => by rw [wswb_bot_pack, wswb_pack, w2b], fun n h hh => ?_⟩
  have hbot : (bot host k.order h).length = 2 * n := by rw [bot_length, hh]
  obtain ⟨v, hv, -⟩ := exists_pack_eq hbot
  obtain ⟨w, rfl, -⟩ := exists_pack_eq hh
  rw [b2w, ← wswb_bot_pack, ← hv, wswb_pack, unpack_pack, unpack_pack]

@[simp] theorem b2w_w2b (host : Order) (k : CodecConfig) (w : List Word) : b2w host k (w2b host k w) = w := by
  rw [b2w, w2b, bot_bot_same, unpack_pack, wsw_wsw]

theorem w2b_b2w {n : Nat} {h : List Byte} (hh : h.length = 2 * n) (host : Order) (k : CodecConfig) :
    w2b host k (b2w host k h) = h := by
  rw [b2w, w2b, wsw_wsw, pack_unpack_even n _ (by rw [bot_length, hh]), bot_bot_same]

/-- Settles O43: the stages of one composite undo those of the other, from the inside out. -/
theorem compositeTransformsInvert : Obligations.CompositeTransformsInvert := by
  unfold Obligations.CompositeTransformsInvert
  exact fun host k => ⟨fun w => ⟨b2w_w2b host k w, w2b_length host k w⟩,
    fun n h hh => ⟨w2b_b2w hh host k, b2w_length_even host k n h hh⟩⟩

end Sys2Proof.Machine
end

section
/-! SUPPORT. The serializers are bijections and do not see the host's byte order behind the byte-order transform
(43_int_serializers.md R128, R134), and FITS is the range of the width (R130). -/

namespace Sys2Proof.Machine

/-! ## I2B and B2I -/

/-- Two vectors of whole bytes are equal when their bytes are. -/
theorem eq_of_extractLsb'_bytes {w : Nat} (hw : 8 ∣ w) {x y : BitVec w}
    (h : ∀ j < w / 8, x.extractLsb' (8 * j) 8 = y.extractLsb' (8 * j) 8) : x = y := by
  refine BitVec.eq_of_getLsbD_eq fun i hi => ?_
  have hbyte := congrArg (BitVec.getLsbD · (i % 8)) (h (i / 8) (by omega))
  simpa [Nat.mod_lt i (show 0 < 8 by decide), Nat.div_add_mod] using hbyte

/-- The byte at bit `8j` of the little reading is byte `j` of the sequence. -/
theorem fromLittle_extractLsb' {w : Nat} {h : List Byte} (hh : 8 * h.length = w) {j : Nat} {y : Byte} (hy : h[j]? = some y) :
    (fromLittle w h).extractLsb' (8 * j) 8 = y := by
  have hj : j < h.length := (List.getElem?_eq_some_iff.mp hy).1
  refine BitVec.eq_of_getLsbD_eq fun b hb => ?_
  rw [BitVec.getLsbD_extractLsb', decide_eq_true hb, Bool.true_and]
  exact fromLittle_getLsbD hy hb (by omega)

theorem fromLittle_i2b_little {w : Nat} (hw : 8 ∣ w) (x : BitVec w) : fromLittle w (i2b .little w x) = x :=
  eq_of_extractLsb'_bytes hw fun _ hj =>
    fromLittle_extractLsb' (by rw [i2b_length]; omega) (i2b_little_getElem? x hj)

theorem i2b_little_fromLittle {w : Nat} {h : List Byte} (hh : 8 * h.length = w) : i2b .little w (fromLittle w h) = h := by
  refine List.ext_getElem? fun j => ?_
  by_cases hj : j < w / 8
  · have hy : h[j]? = some h[j] := List.getElem?_eq_getElem (by omega)
    rw [i2b_little_getElem? _ hj, fromLittle_extractLsb' hh hy, hy]
  · rw [List.getElem?_eq_none (by rw [i2b_length]; omega), List.getElem?_eq_none (by omega)]

/-- The big form is the little form reversed. -/
theorem i2b_big_eq_reverse {w : Nat} (hw : 8 ∣ w) (x : BitVec w) : i2b .big w x = (i2b .little w x).reverse := by
  refine List.ext_getElem? fun j => ?_
  by_cases hj : j < w / 8
  · rw [i2b_big_getElem? x hj, List.getElem?_reverse (by rwa [i2b_length]), i2b_length, i2b_little_getElem? x (by omega)]
    congr 2
    omega
  · have hlen : (i2b .little w x).reverse.length = w / 8 := by rw [List.length_reverse, i2b_length]
    rw [List.getElem?_eq_none (by rw [i2b_length]; omega), List.getElem?_eq_none (by omega)]

/-- I2B is the little form sent through the byte-order transform (R126). -/
theorem i2b_eq_bot {w : Nat} (hw : 8 ∣ w) (host : Order) (x : BitVec w) :
    i2b host w x = bot host .little (i2b .little w x) := by
  cases host with
  | little => rw [bot_same]
  | big => rw [bot_differ (by decide), i2b_big_eq_reverse hw]

/-- B2I is the little reading of the sequence sent through the byte-order transform (R127). -/
theorem b2i_eq_bot (host : Order) (w : Nat) (h : List Byte) : b2i host w h = fromLittle w (bot host .little h) := by
  cases host with
  | little => rw [bot_same]; rfl
  | big => rw [bot_differ (by decide)]; rfl

theorem b2i_i2b {w : Nat} (hw : 8 ∣ w) (host : Order) (x : BitVec w) : b2i host w (i2b host w x) = x := by
  rw [b2i_eq_bot, i2b_eq_bot hw, bot_bot_same, fromLittle_i2b_little hw]

theorem i2b_b2i {w : Nat} {h : List Byte} (hh : 8 * h.length = w) (host : Order) : i2b host w (b2i host w h) = h := by
  rw [b2i_eq_bot, i2b_eq_bot ⟨h.length, hh.symm⟩, i2b_little_fromLittle (by rwa [bot_length]), bot_bot_same]

/-- Settles O46: the two inverse laws hold at every width that is a whole number of bytes. -/
theorem integerBytesRoundTrip : Obligations.IntegerBytesRoundTrip := by
  unfold Obligations.IntegerBytesRoundTrip
  intro host w hw
  have hdvd : 8 ∣ w := (by decide : ∀ w ∈ [16, 32, 64, 128], 8 ∣ w) w hw
  exact ⟨b2i_i2b hdvd host, fun h hh => i2b_b2i (by omega) host⟩

/-! ## FITS -/

/-- Unsigned FITS is the check of the upper bits (R130, R154). -/
theorem fits_unsigned_eq_upperZero {w : Nat} (v : Val) : fits false w v = upperZero w v := by
  by_cases hw : 128 ≤ w
  · have hv : v.toNat < 2 ^ w := v.isLt.trans_le (Nat.pow_le_pow_right (by decide) hw)
    rw [(upperZero_iff w v).mpr hv, fits, if_pos hw]
  · rw [fits, if_neg hw]
    rfl

theorem fits_unsigned_iff {w : Nat} (v : Val) : fits false w v = true ↔ v.toNat < 2 ^ w := by
  rw [fits_unsigned_eq_upperZero, upperZero_iff]

/-- The bits of a vector from `m` up are ones exactly when its complement is below `2^m`. -/
theorem extractLsb'_from_eq_allOnes_iff {n : Nat} (m : Nat) (v : BitVec n) :
    v.extractLsb' m (n - m) = BitVec.allOnes (n - m) ↔ (~~~v).toNat < 2 ^ m := by
  have hnot : (~~~v).extractLsb' m (n - m) = ~~~v.extractLsb' m (n - m) :=
    BitVec.eq_of_getLsbD_eq fun i hi => by simp [hi, show m + i < n by omega]
  rw [← extractLsb'_from_eq_zero_iff, hnot, BitVec.not_eq_comm]
  exact iff_of_eq (congrArg (_ = ·) BitVec.not_zero.symm)

/-- A vector or its complement is below `2^m` exactly when its reading in two's complement is within `2^m` of zero. -/
theorem toNat_or_not_toNat_lt_iff {m : Nat} (hm : m ≤ 127) (v : Val) :
    v.toNat < 2 ^ m ∨ (~~~v).toNat < 2 ^ m ↔ -(2 : Int) ^ m ≤ v.toInt ∧ v.toInt < (2 : Int) ^ m := by
  have hpow : 2 ^ m ≤ 2 ^ 127 := Nat.pow_le_pow_right (by decide) hm
  have hcast : (2 : Int) ^ m = ((2 ^ m : Nat) : Int) := by push_cast; rfl
  have hv := v.isLt
  rw [hcast, BitVec.toNat_not, BitVec.toInt_eq_toNat_cond]
  generalize 2 ^ m = b at hpow
  split <;> omega

/-- Signed FITS says that VAL, read in two's complement, is in the range of the width (R130). -/
theorem fits_signed_iff {w : Nat} (hw : 0 < w) (hw' : w ≤ 128) (v : Val) :
    fits true w v = true ↔ -(2 : Int) ^ (w - 1) ≤ v.toInt ∧ v.toInt < (2 : Int) ^ (w - 1) := by
  obtain ⟨m, rfl⟩ : ∃ m, w = m + 1 := ⟨w - 1, by omega⟩
  by_cases h128 : 128 ≤ m + 1
  · obtain rfl : m = 127 := by omega
    exact iff_of_true rfl ⟨BitVec.le_toInt v, BitVec.toInt_lt⟩
  · have hlen : 129 - (m + 1) = 128 - m := by omega
    rw [fits, if_neg h128, if_pos rfl, hlen, Nat.add_sub_cancel, Bool.or_eq_true, beq_iff_eq, beq_iff_eq,
      ← toNat_or_not_toNat_lt_iff (by omega), ← extractLsb'_from_eq_zero_iff, ← extractLsb'_from_eq_allOnes_iff]

/-- The signed reading of VAL is its value up to a multiple of `2^128`. -/
theorem two_pow_dvd_toInt_sub_toNat {w : Nat} (hw : w ≤ 128) (v : Val) : ((2 ^ w : Nat) : Int) ∣ v.toInt - v.toNat := by
  have hdvd : ((2 ^ w : Nat) : Int) ∣ 2 ^ 128 := by exact_mod_cast Nat.pow_dvd_pow 2 hw
  rw [BitVec.toInt_eq_toNat_cond]
  split
  · simp
  · simpa using hdvd

/-- Truncation to a width in whose range VAL is, and the extension back, give VAL again. -/
theorem extend_setWidth_of_fits {w : Nat} (hw : 0 < w) (hw' : w ≤ 128) {signed : Bool} {v : Val} (h : fits signed w v = true) :
    extend signed w (v.setWidth w) = v := by
  cases signed with
  | false =>
    have hv := (fits_unsigned_iff v).mp h
    refine BitVec.eq_of_toNat_eq ?_
    simp only [extend, Bool.false_eq_true, if_false, BitVec.toNat_setWidth]
    rw [Nat.mod_eq_of_lt hv, Nat.mod_eq_of_lt v.isLt]
  | true =>
    obtain ⟨hlow, hhigh⟩ := (fits_signed_iff hw hw' v).mp h
    have htwo : ((2 ^ w : Nat) : Int) = 2 * 2 ^ (w - 1) := by
      rw [← pow_succ', Nat.sub_add_cancel hw]; push_cast; rfl
    refine BitVec.eq_of_toInt_eq ?_
    rw [extend, if_pos rfl, BitVec.toInt_signExtend_of_le hw', BitVec.toInt_setWidth, Int.bmod_eq_iff (Nat.two_pow_pos w)]
    exact ⟨by omega, by omega, two_pow_dvd_toInt_sub_toNat hw' v⟩

/-- Settles O47: the two readings of FITS, and the truncation undone. -/
theorem fitsMeansRepresentable : Obligations.FitsMeansRepresentable := by
  unfold Obligations.FitsMeansRepresentable
  intro v w hw
  obtain ⟨hpos, hle⟩ := (by decide : ∀ w ∈ [16, 32, 64, 128], 0 < w ∧ w ≤ 128) w hw
  exact ⟨fits_unsigned_iff v, fits_signed_iff hpos hle v, fun _ => extend_setWidth_of_fits hpos hle⟩

/-- The extension of a pattern is in the range of the width. -/
theorem fits_extend {w : Nat} (hw : 0 < w) (hw' : w ≤ 128) (signed : Bool) (x : BitVec w) :
    fits signed w (extend signed w x) = true := by
  cases signed with
  | false =>
    rw [fits_unsigned_iff, extend, if_neg (by decide), BitVec.toNat_setWidth]
    exact (Nat.mod_le _ _).trans_lt x.isLt
  | true =>
    rw [fits_signed_iff hw hw', extend, if_pos rfl, BitVec.toInt_signExtend_of_le hw']
    exact ⟨BitVec.le_toInt x, BitVec.toInt_lt⟩

/-- Both extensions keep the bits of the pattern. -/
theorem extend_getLsbD {w i : Nat} (hi : i < w) (hw : w ≤ 128) (signed : Bool) (x : BitVec w) :
    (extend signed w x).getLsbD i = x.getLsbD i := by
  cases signed with
  | false => simp [extend, hi, show i < 128 by omega]
  | true => simp [extend, BitVec.getElem_signExtend, hi, show i < 128 by omega]

theorem setWidth_extend {w : Nat} (hw : w ≤ 128) (signed : Bool) (x : BitVec w) : (extend signed w x).setWidth w = x := by
  refine BitVec.eq_of_getLsbD_eq fun i hi => ?_
  rw [BitVec.getLsbD_setWidth, decide_eq_true hi, Bool.true_and, extend_getLsbD hi hw]

end Sys2Proof.Machine
end

section
/-! SUPPORT. Register layouts (20_memory.md R46, R47): the registers of B2W as pairs of bytes, and the serialized integer as a byte
sequence in big order, whatever the host's order is. -/

namespace Sys2Proof.Machine

/-- A data operation under a configuration answers its own response. -/
theorem exec_configured {i : Instr} (hi : isCfg i = false) {s : State} {c : Command} {rest : List Command} {k : CodecConfig}
    (hs : s.pending = c :: rest) (hk : s.cfg = some k) :
    exec i s = .next (s.answer (operationResponse s.params i k (Scratch.fresh s.params) c)) := by
  rw [exec_eq_dataCommand hi, dataCommand_cons hs, dataResponse_configured hk]

theorem exec_eq_complete {i : Instr} (hi : isCfg i = false) {s : State} {c : Command} {rest : List Command} {k : CodecConfig}
    {v : Result} (hs : s.pending = c :: rest) (hk : s.cfg = some k)
    (h : ∀ buf, operationResponse s.params i k buf c = .ok v) : exec i s = .next (s.complete v) := by
  rw [exec_configured hi hs hk, h, State.answer_ok]

/-! ## The tables -/

/-- WSWAP mirrors the register index. -/
theorem layoutWord_swap (differ : Bool) {n i : Nat} (hi : i < n) (x : Nat → Byte) :
    layoutWord true differ (2 * n) x i = layoutWord false differ (2 * n) x (n - 1 - i) := by
  cases differ with
  | false =>
    rw [layoutWord, layoutWord, show 2 * (n - 1 - i) = 2 * n - 2 - 2 * i by omega,
      show 2 * n - 2 - 2 * i + 1 = 2 * n - 1 - 2 * i by omega]
  | true =>
    rw [layoutWord, layoutWord, show 2 * n - 1 - 2 * (n - 1 - i) = 2 * i + 1 by omega,
      show 2 * n - 2 - 2 * (n - 1 - i) = 2 * i by omega]

section
variable {n : Nat} {h : List Byte} {x : Nat → Byte} (hh : h.length = 2 * n) (hx : ∀ j < 2 * n, h[j]? = some (x j))
include hh hx

/-- Without the word swap, register `i` is the pair `2i`, `2i+1` of the bytes behind the byte-order transform. -/
theorem unpack_bot_getElem? (host order : Order) {i : Nat} (hi : i < n) :
    (unpack (bot host order h))[i]? = some (layoutWord false (decide (order ≠ host)) (2 * n) x i) := by
  have hbot : (bot host order h).length = 2 * n := by rw [bot_length, hh]
  by_cases ho : order = host
  · subst ho
    rw [bot_same] at hbot ⊢
    rw [unpack_getElem? hbot (hx (2 * i) (by omega)) (hx (2 * i + 1) (by omega)), decide_eq_false (not_not.mpr rfl), layoutWord]
  · have hrev : ∀ j < 2 * n, (bot host order h)[j]? = some (x (2 * n - 1 - j)) := fun j hj => by
      rw [bot_differ_getElem? ho (by omega), hh, hx _ (by omega)]
    rw [unpack_getElem? hbot (hrev (2 * i) (by omega)) (hrev (2 * i + 1) (by omega)), decide_eq_true ho, layoutWord,
      show 2 * n - 1 - (2 * i + 1) = 2 * n - 2 - 2 * i by omega]

/-- The registers of B2W are those of the table of R47. -/
theorem b2w_getElem? (host : Order) (k : CodecConfig) {i : Nat} (hi : i < n) :
    (b2w host k h)[i]? = some (layoutWord k.wswap (decide (k.order ≠ host)) (2 * n) x i) := by
  rw [b2w]
  cases k.wswap with
  | false => rw [wsw_false, unpack_bot_getElem? hh hx _ _ hi]
  | true =>
    have hlen : (unpack (bot host k.order h)).length = n := unpack_length_even n _ (by rw [bot_length, hh])
    rw [wsw_true_getElem? (by rwa [hlen]), hlen, unpack_bot_getElem? hh hx _ _ (by omega), layoutWord_swap _ hi]

end

/-- Settles O50: B2W takes LEN and twice as many bytes, and its registers are those of the table. -/
theorem b2wRegisterLayout : Obligations.B2wRegisterLayout := by
  unfold Obligations.B2wRegisterLayout
  intro s c rest k n hs hk hpos hle hlen
  refine ⟨b2w s.params.hostOrder k c.bseq, ?_, b2w_length_even _ _ _ _ hlen, fun i hi => ?_⟩
  · exact exec_eq_complete (i := .b2w n) rfl hs hk fun buf => b2wResponse_eq_ok_iff.mpr ⟨by omega, hlen, rfl⟩
  · exact b2w_getElem? hlen (fun j hj => by simp [show j < c.bseq.length by omega]) _ _ hi

/-! ## The serialized integer -/

/-- The registers of a serialized integer are the same for both host orders: I2B and B2W both turn on the host's order, and the
two turns cancel (R134). -/
theorem b2w_i2b_host {w : Nat} (hw : 8 ∣ w) (host host' : Order) (k : CodecConfig) (x : BitVec w) :
    b2w host k (i2b host w x) = b2w host' k (i2b host' w x) := by
  rw [b2w, b2w, i2b_eq_bot hw host, i2b_eq_bot hw host', bot_bot, bot_bot]

/-- The same for the integer read from registers. -/
theorem b2i_w2b_host (host host' : Order) (w : Nat) (k : CodecConfig) (r : List Word) :
    b2i host w (w2b host k r) = b2i host' w (w2b host' k r) := by
  rw [b2i_eq_bot, b2i_eq_bot, w2b, w2b, bot_bot, bot_bot]

theorem dvd_sixteen_mul (n : Nat) : 8 ∣ 16 * n := ⟨2 * n, by omega⟩

/-- In big order the bytes of the truncated VAL are the value bytes of the table, most significant first. -/
theorem i2b_big_setWidth_getElem? {w j : Nat} (v : Val) (hj : j < w / 8) :
    (i2b .big w (v.setWidth w))[j]? = some (valueByte w v j) := by
  rw [i2b_big_getElem? _ hj, Option.some_inj, valueByte]
  exact BitVec.eq_of_getLsbD_eq fun b hb => by simp [hb, show w - 8 - 8 * j + b < w by omega]

/-- The registers of a serialized integer are those of the table of R46. -/
theorem b2w_i2b_getElem? (host : Order) (k : CodecConfig) (v : Val) {n i : Nat} (hi : i < n) :
    (b2w host k (i2b host (16 * n) (v.setWidth (16 * n))))[i]? =
      some (layoutWord k.wswap (decide (k.order = .little)) (2 * n) (valueByte (16 * n) v) i) := by
  have hlen : (i2b .big (16 * n) (v.setWidth (16 * n))).length = 2 * n := by rw [i2b_length]; omega
  have horder : decide (k.order ≠ .big) = decide (k.order = .little) := by cases k.order <;> rfl
  rw [b2w_i2b_host (dvd_sixteen_mul n) host .big,
    b2w_getElem? hlen (fun j hj => i2b_big_setWidth_getElem? v (by omega)) _ _ hi, horder]

/-- Settles O48: the registers of the serialized VAL. -/
theorem seriRegisterLayout : Obligations.SeriRegisterLayout := by
  unfold Obligations.SeriRegisterLayout
  intro s c rest k signed scaled n hs hk hn hfits
  refine ⟨b2w s.params.hostOrder k (i2b s.params.hostOrder (16 * n) (c.val.setWidth (16 * n))), ?_, b2w_i2b_length _ _ _ _,
    fun i hi => b2w_i2b_getElem? _ k c.val hi⟩
  exact exec_eq_complete (i := .seri signed scaled n) rfl hs hk fun buf => seriResponse_eq_ok_iff.mpr ⟨hn, hfits, rfl⟩

/-- Settles O49: the registers of the serialized VAL, as for `SERI`. -/
theorem serfRegisterLayout : Obligations.SerfRegisterLayout := by
  unfold Obligations.SerfRegisterLayout
  intro s c rest k n hs hk hn hlt
  refine ⟨b2w s.params.hostOrder k (i2b s.params.hostOrder (16 * n) (c.val.setWidth (16 * n))), ?_, b2w_i2b_length _ _ _ _,
    fun i hi => b2w_i2b_getElem? _ k c.val hi⟩
  exact exec_eq_complete (i := .serf n) rfl hs hk fun buf => serfResponse_eq_ok_iff.mpr ⟨hn, hlt, rfl⟩

end Sys2Proof.Machine
end

section
/-! SUPPORT. Operations that undo each other (43_int_serializers.md section 5, 44_float_reinterpret.md section 3, 42_word_swapper.md
R115, 41_byte_order_mux.md R100): the law of the responses, and once the way from responses to commands. -/

namespace Sys2Proof.Machine

/-- A success that a data operation appended is its response under the configuration. -/
theorem exec_ok {i : Instr} (hi : isCfg i = false) {s t : State} {c : Command} {rest : List Command} {v : Result}
    (hs : s.pending = c :: rest) (h : exec i s = .next t) (hr : t.responses = s.responses ++ [.ok v]) :
    ∃ k buf, s.cfg = some k ∧ operationResponse s.params i k buf c = .ok v := by
  rw [exec_eq_dataCommand hi, dataCommand_cons hs] at h
  cases h
  rw [State.answer_responses] at hr
  obtain ⟨k, hk, hv⟩ := dataResponse_ok (List.singleton_inj.mp (List.append_cancel_left hr))
  exact ⟨k, _, hk, hv⟩

/-- Where the response of `j` undoes the response of `i`, the command `j` undoes the command `i` under the same CFG. -/
theorem exec_undoes {i j : Instr} (hi : isCfg i = false) (hj : isCfg j = false) {s t s' : State} {c c' : Command}
    {rest rest' : List Command} {v v' : Result} (hs : s.pending = c :: rest) (h : exec i s = .next t)
    (hr : t.responses = s.responses ++ [.ok v]) (hp : s'.params = s.params) (hk : s'.cfg = s.cfg)
    (hs' : s'.pending = c' :: rest')
    (hundo : ∀ k buf buf', operationResponse s.params i k buf c = .ok v → operationResponse s.params j k buf' c' = .ok v') :
    exec j s' = .next (s'.complete v') := by
  obtain ⟨k, buf, hcfg, hv⟩ := exec_ok hi hs h hr
  exact exec_eq_complete hj hs' (hk.trans hcfg) fun buf' => by rw [hp, hundo k buf buf' hv]

/-! ## The numeric operations -/

/-- The widths of the integer operations (R125). -/
theorem width_of_mem_intLengths {scaled : Bool} {n : Nat} (h : n ∈ intLengths scaled) : 0 < 16 * n ∧ 16 * n ≤ 128 :=
  (by decide : ∀ scaled, ∀ n ∈ intLengths scaled, 0 < 16 * n ∧ 16 * n ≤ 128) scaled n h

section
variable {p : Params} {k : CodecConfig} {buf buf' : Scratch} {signed scaled : Bool} {n : Nat} {w : List Word} {v : Val}

theorem seriResponse_length (h : seriResponse p k buf signed scaled n v = .ok (.words w)) : w.length = n := by
  obtain ⟨-, -, hw⟩ := seriResponse_eq_ok_iff.mp h
  cases hw
  exact b2w_i2b_length _ _ _ _

/-- `DESI` reads the bytes `SERI` wrote, and FITS says that the extension restores VAL. -/
theorem desiResponse_of_seriResponse (h : seriResponse p k buf signed scaled n v = .ok (.words w)) :
    desiResponse p k buf' signed scaled w = .ok (.value v) := by
  obtain ⟨hn, hfits, hw⟩ := seriResponse_eq_ok_iff.mp h
  obtain ⟨hpos, hle⟩ := width_of_mem_intLengths hn
  refine (desiResponse_eq_ok_iff (seriResponse_length h)).mpr ⟨hn, ?_⟩
  cases hw
  rw [w2b_b2w (n := n) (by rw [i2b_length]; omega), b2i_i2b (dvd_sixteen_mul n), extend_setWidth_of_fits hpos hle hfits]

/-- `SERI` accepts every extension, and truncation restores the pattern `DESI` read. -/
theorem seriResponse_of_desiResponse (h : desiResponse p k buf signed scaled w = .ok (.value v)) :
    seriResponse p k buf' signed scaled w.length v = .ok (.words w) := by
  obtain ⟨hn, hv⟩ := (desiResponse_eq_ok_iff rfl).mp h
  obtain ⟨hpos, hle⟩ := width_of_mem_intLengths hn
  cases hv
  refine seriResponse_eq_ok_iff.mpr ⟨hn, fits_extend hpos hle signed _, ?_⟩
  rw [setWidth_extend hle, i2b_b2i (by rw [w2b_length]; omega), b2w_w2b]

/-- `SERF` is `SERI.u` at the float lengths, with another error for an operand too wide (44_float_reinterpret.md section 3). -/
theorem serfResponse_eq_ok_iff_seriResponse {r : Result} : serfResponse p k buf n v = .ok r ↔
    n ∈ floatLengths ∧ seriResponse p k buf false false n v = .ok r := by
  rw [serfResponse_eq_ok_iff, seriResponse_eq_ok_iff, fits_unsigned_iff]
  exact ⟨fun ⟨hn, hv⟩ => ⟨hn, mem_intLengths_of_mem_floatLengths hn, hv⟩, fun ⟨hn, _, hv⟩ => ⟨hn, hv⟩⟩

/-- `DESF` is `DESI.u` at the float lengths. -/
theorem desfResponse_eq_ok_iff_desiResponse {r : Result} : desfResponse p k buf w = .ok r ↔
    w.length ∈ floatLengths ∧ desiResponse p k buf false false w = .ok r := by
  rw [desfResponse_eq_ok_iff rfl, desiResponse_eq_ok_iff rfl]
  exact ⟨fun ⟨hn, hv⟩ => ⟨hn, mem_intLengths_of_mem_floatLengths hn, hv⟩, fun ⟨hn, _, hv⟩ => ⟨hn, hv⟩⟩

theorem desfResponse_of_serfResponse (h : serfResponse p k buf n v = .ok (.words w)) :
    desfResponse p k buf' w = .ok (.value v) := by
  obtain ⟨hn, h⟩ := serfResponse_eq_ok_iff_seriResponse.mp h
  exact desfResponse_eq_ok_iff_desiResponse.mpr ⟨by rwa [seriResponse_length h], desiResponse_of_seriResponse h⟩

theorem serfResponse_of_desfResponse (h : desfResponse p k buf w = .ok (.value v)) :
    serfResponse p k buf' w.length v = .ok (.words w) := by
  obtain ⟨hn, h⟩ := desfResponse_eq_ok_iff_desiResponse.mp h
  exact serfResponse_eq_ok_iff_seriResponse.mpr ⟨hn, seriResponse_of_desiResponse h⟩

end

/-- Settles O51: `desiResponse_of_seriResponse` at the level of commands. -/
theorem desiUndoesSeri : Obligations.DesiUndoesSeri := by
  unfold Obligations.DesiUndoesSeri
  intro s t s' c c' rest rest' signed scaled n r hs h hr hp hk hs' hw
  subst hw
  exact exec_undoes (i := .seri signed scaled n) (j := .desi signed scaled) rfl rfl hs h hr hp hk hs' fun _ _ _ =>
    desiResponse_of_seriResponse

/-- Settles O52: `seriResponse_of_desiResponse` at the level of commands. -/
theorem seriUndoesDesi : Obligations.SeriUndoesDesi := by
  unfold Obligations.SeriUndoesDesi
  intro s t s' c c' rest rest' signed scaled v hs h hr hp hk hs' hv
  subst hv
  exact exec_undoes (i := .desi signed scaled) (j := .seri signed scaled c.wseq.length) rfl rfl hs h hr hp hk hs' fun _ _ _ =>
    seriResponse_of_desiResponse

/-- Settles O53: the laws of the unsigned integer operations at the float lengths, at the level of commands. -/
theorem floatPatternsRoundTrip : Obligations.FloatPatternsRoundTrip := by
  unfold Obligations.FloatPatternsRoundTrip
  intro s t s' c c' rest rest' hs hp hk hs'
  refine ⟨fun n h hr => ?_, fun h hr => ?_⟩
  · exact exec_undoes (i := .serf n) (j := .desf) rfl rfl hs h hr hp hk hs' fun _ _ _ => desfResponse_of_serfResponse
  · exact exec_undoes (i := .desf) (j := .serf c.wseq.length) rfl rfl hs h hr hp hk hs' fun _ _ _ => serfResponse_of_desfResponse

/-! ## The raw-byte and leaf operations -/

section
variable {p : Params} {k : CodecConfig} {buf buf' : Scratch} {n : Nat} {w : List Word} {b : List Byte}

/-- `W2B` gets as many registers as `B2W` checked to be positive. -/
theorem w2bResponse_of_b2wResponse (h : b2wResponse p k buf n b = .ok (.words w)) :
    w2bResponse p k buf' w = .ok (.bytes b) := by
  obtain ⟨hn, hb, hw⟩ := b2wResponse_eq_ok_iff.mp h
  cases hw
  refine w2bResponse_eq_ok_iff.mpr ⟨?_, by rw [w2b_b2w hb]⟩
  rw [b2w_length_even _ _ n _ hb]
  omega

/-- `B2W` gets twice as many bytes as `W2B` had registers. -/
theorem b2wResponse_of_w2bResponse (hw : w.length ≤ p.nmax) (h : w2bResponse p k buf w = .ok (.bytes b)) :
    b2wResponse p k buf' w.length b = .ok (.words w) := by
  obtain ⟨hpos, hb⟩ := w2bResponse_eq_ok_iff.mp h
  cases hb
  exact b2wResponse_eq_ok_iff.mpr ⟨by omega, w2b_length _ _ _, by rw [b2w_w2b]⟩

end

/-- Settles O54: each pair's response law at the level of commands; `BOT` and `WSW` are their own inverses. -/
theorem rawCommandsUndoEachOther : Obligations.RawCommandsUndoEachOther := by
  unfold Obligations.RawCommandsUndoEachOther
  intro s t s' c c' rest rest' hs hp hk hs'
  refine ⟨fun n h hr => ?_, fun h hr hw => ?_, fun h hr => ?_, fun h hr => ?_⟩
  · exact exec_undoes (i := .b2w n) (j := .w2b) rfl rfl hs h hr hp hk hs' fun _ _ _ => w2bResponse_of_b2wResponse
  · exact exec_undoes (i := .w2b) (j := .b2w c.wseq.length) rfl rfl hs h hr hp hk hs' fun _ _ _ => b2wResponse_of_w2bResponse hw
  · refine exec_undoes (i := .bot) (j := .bot) rfl rfl hs h hr hp hk hs' fun k _ _ hresp => ?_
    simp only [operationResponse, Except.ok.injEq, Result.bytes.injEq] at hresp ⊢
    rw [← hresp, bot_bot_same]
  · refine exec_undoes (i := .wsw) (j := .wsw) rfl rfl hs h hr hp hk hs' fun k _ _ hresp => ?_
    simp only [operationResponse, Except.ok.injEq, Result.words.injEq] at hresp ⊢
    rw [← hresp, wsw_wsw]

end Sys2Proof.Machine
end

section
/-! SUPPORT. What the numeric operations do not depend on: the host's byte order (43_int_serializers.md R134), K off 8 registers (R133),
S where both readings fit (R136), and the family where both accept (44_float_reinterpret.md R158). -/

namespace Sys2Proof

/-- The parameters of the state with another host order (43_int_serializers.md R134). -/
def Params.withHostOrder (p : Params) (o : Order) : Params := { p with hostOrder := o }

end Sys2Proof

namespace Sys2Proof.Machine

/-- Two operations with the same response to the pending command, under every configuration, are the same there. -/
theorem exec_congr_response {i j : Instr} (hi : isCfg i = false) (hj : isCfg j = false) {s : State} {c : Command}
    {rest : List Command} (hs : s.pending = c :: rest)
    (h : ∀ k buf, operationResponse s.params i k buf c = operationResponse s.params j k buf c) : exec i s = exec j s := by
  simp only [exec_eq_answer_underCfg hi hs, exec_eq_answer_underCfg hj hs, h]

theorem exec_eq_raise {i : Instr} (hi : isCfg i = false) {s : State} {c : Command} {rest : List Command} {k : CodecConfig}
    {e : ErrorKind} (hs : s.pending = c :: rest) (hk : s.cfg = some k)
    (h : ∀ buf, operationResponse s.params i k buf c = .error e) : exec i s = .next (s.raise e) := by
  rw [exec_configured hi hs hk, h, State.answer_error]

/-! ## The host's byte order -/

theorem answer_withHostOrder (s : State) (o : Order) (r : Response) :
    (s.answer r).withHostOrder o = (s.withHostOrder o).answer r := by
  cases r <;> rfl

/-- An operation whose response does not depend on the host's order is independent of it as a command. -/
theorem exec_withHostOrder {i : Instr} (hi : isCfg i = false) {o : Order}
    (hind : ∀ p k buf buf' c, operationResponse (p.withHostOrder o) i k buf' c = operationResponse p i k buf c) {s t : State}
    (h : exec i s = .next t) : exec i (s.withHostOrder o) = .next (t.withHostOrder o) := by
  rw [exec_eq_dataCommand hi] at h
  obtain ⟨c, rest, hs, rfl⟩ := dataCommand_next h
  have hs' : (s.withHostOrder o).pending = c :: rest := hs
  have hresp : dataResponse (s.withHostOrder o) (operationResponse (s.withHostOrder o).params i) c =
      dataResponse s (operationResponse s.params i) c := by
    cases hk : s.cfg with
    | none => rw [dataResponse_unconfigured hk, dataResponse_unconfigured (s := s.withHostOrder o) hk]
    | some k =>
      rw [dataResponse_configured hk, dataResponse_configured (s := s.withHostOrder o) hk]
      exact hind s.params k _ _ c
  rw [exec_eq_dataCommand hi, dataCommand_cons hs', hresp, answer_withHostOrder]

section
variable (p : Params) (o : Order) (k : CodecConfig) (buf buf' : Scratch)

theorem seriResponse_withHostOrder (signed scaled : Bool) (n : Nat) (v : Val) :
    seriResponse (p.withHostOrder o) k buf' signed scaled n v = seriResponse p k buf signed scaled n v := by
  rw [seriResponse_eq, seriResponse_eq, b2w_i2b_host (dvd_sixteen_mul n)]

theorem desiResponse_withHostOrder (signed scaled : Bool) (w : List Word) :
    desiResponse (p.withHostOrder o) k buf' signed scaled w = desiResponse p k buf signed scaled w := by
  rw [desiResponse_eq, desiResponse_eq, b2i_w2b_host]

theorem serfResponse_withHostOrder (n : Nat) (v : Val) :
    serfResponse (p.withHostOrder o) k buf' n v = serfResponse p k buf n v := by
  rw [serfResponse_eq, serfResponse_eq, b2w_i2b_host (dvd_sixteen_mul n)]

theorem desfResponse_withHostOrder (w : List Word) : desfResponse (p.withHostOrder o) k buf' w = desfResponse p k buf w := by
  rw [desfResponse_eq, desfResponse_eq, b2i_w2b_host]

end

/-- Settles O55: the host's order enters the four responses through the serializer and the composite, where it cancels. -/
theorem numericOperationsIgnoreHostOrder : Obligations.NumericOperationsIgnoreHostOrder := by
  unfold Obligations.NumericOperationsIgnoreHostOrder
  refine fun s t o => ⟨fun g k n => ?_, fun g k => ?_, fun n => ?_, ?_⟩
  · exact exec_withHostOrder (i := .seri g k n) rfl fun p _ _ _ c => seriResponse_withHostOrder p o _ _ _ g k n c.val
  · exact exec_withHostOrder (i := .desi g k) rfl fun p _ _ _ c => desiResponse_withHostOrder p o _ _ _ g k c.wseq
  · exact exec_withHostOrder (i := .serf n) rfl fun p _ _ _ c => serfResponse_withHostOrder p o _ _ _ n c.val
  · exact exec_withHostOrder (i := .desf) rfl fun p _ _ _ c => desfResponse_withHostOrder p o _ _ _ c.wseq

/-! ## K, S and the family -/

/-- K takes 8 from the accepted numbers of registers and nothing else (R133). -/
theorem mem_intLengths_scaled_iff {n : Nat} (hn : n ≠ 8) : n ∈ intLengths true ↔ n ∈ intLengths false := by
  simp [intLengths, hn]

theorem seriResponse_scaled_eight (p : Params) (k : CodecConfig) (buf : Scratch) (signed : Bool) (v : Val) :
    seriResponse p k buf signed true 8 v = .error .unsupportedLength := by
  rw [seriResponse, if_pos (by decide)]

theorem desiResponse_scaled_eight {w : List Word} (hw : w.length = 8) (p : Params) (k : CodecConfig) (buf : Scratch)
    (signed : Bool) : desiResponse p k buf signed true w = .error .unsupportedLength := by
  rw [desiResponse, hw, if_pos (by decide)]

/-- Settles O56: off 8 registers both values of K make the same length check, and at 8 registers K = 1 fails it. -/
theorem scaledFlagOnlyRefusesEightRegisters : Obligations.ScaledFlagOnlyRefusesEightRegisters := by
  unfold Obligations.ScaledFlagOnlyRefusesEightRegisters
  intro s c rest signed hs
  refine ⟨fun n hn => ?_, fun hn => ?_, fun hk => ?_⟩
  · refine exec_congr_response (i := .seri signed true n) (j := .seri signed false n) rfl rfl hs fun k buf => ?_
    simp only [operationResponse, seriResponse, mem_intLengths_scaled_iff hn]
  · refine exec_congr_response (i := .desi signed true) (j := .desi signed false) rfl rfl hs fun k buf => ?_
    simp only [operationResponse, desiResponse, mem_intLengths_scaled_iff hn]
  · obtain ⟨k, hk⟩ := Option.isSome_iff_exists.mp hk
    exact ⟨exec_eq_raise (i := .seri signed true 8) rfl hs hk fun _ =>
        seriResponse_scaled_eight s.params k _ signed c.val,
      fun hn => exec_eq_raise (i := .desi signed true) rfl hs hk fun _ =>
        desiResponse_scaled_eight hn s.params k _ signed⟩

/-- The two extensions of a pattern whose top bit is 0 are one. -/
theorem extend_signed_eq_unsigned {w : Nat} {x : BitVec w} (hx : x.getLsbD (w - 1) = false) :
    extend true w x = extend false w x :=
  BitVec.signExtend_eq_setWidth_of_msb_false (by rw [BitVec.msb_eq_getLsbD_last, hx])

/-- Settles O57: S enters `SERI` through FITS and `DESI` through the extension alone. -/
theorem signedFlagChangesOnlyTheReading : Obligations.SignedFlagChangesOnlyTheReading := by
  unfold Obligations.SignedFlagChangesOnlyTheReading
  intro s c rest scaled hs
  refine ⟨fun n hsigned hunsigned => ?_, fun hk hn => ?_⟩
  · refine exec_congr_response (i := .seri true scaled n) (j := .seri false scaled n) rfl rfl hs fun k buf => ?_
    simp only [operationResponse, seriResponse, hsigned, hunsigned]
  · obtain ⟨k, hk⟩ := Option.isSome_iff_exists.mp hk
    obtain ⟨hpos, hle⟩ := width_of_mem_intLengths hn
    have hexec (signed : Bool) := exec_eq_complete (i := .desi signed scaled) rfl hs hk fun buf =>
      (desiResponse_eq_ok_iff rfl).mpr ⟨hn, rfl⟩
    refine ⟨_, _, hexec true, hexec false, fun b hb => ?_, fun htop => ?_⟩
    · rw [extend_getLsbD hb hle, extend_getLsbD hb hle]
    · rw [extend_getLsbD (by omega) hle] at htop
      exact extend_signed_eq_unsigned htop

/-- Settles O58: where the float operation succeeds, the unsigned integer operation gives the same success. -/
theorem floatOperationsAreUnsignedIntegerOnes : Obligations.FloatOperationsAreUnsignedIntegerOnes := by
  unfold Obligations.FloatOperationsAreUnsignedIntegerOnes
  intro s c rest hs
  refine ⟨fun n hn hv => ?_, fun hn => ?_⟩
  · refine exec_congr_response (i := .serf n) (j := .seri false false n) rfl rfl hs fun k buf => ?_
    have hserf : serfResponse s.params k buf n c.val = .ok _ := serfResponse_eq_ok_iff.mpr ⟨hn, hv, rfl⟩
    exact hserf.trans (serfResponse_eq_ok_iff_seriResponse.mp hserf).2.symm
  · refine exec_congr_response (i := .desf) (j := .desi false false) rfl rfl hs fun k buf => ?_
    have hdesf : desfResponse s.params k buf c.wseq = .ok _ := (desfResponse_eq_ok_iff rfl).mpr ⟨hn, rfl⟩
    exact hdesf.trans (desfResponse_eq_ok_iff_desiResponse.mp hdesf).2.symm

end Sys2Proof.Machine
end
